-- ==== Sys2Proof/Word.lean ====
section
/-! DEFINITION. The word types of the CORE (spec/00_scope.md rules R7, R8, R16, R18). -/

namespace Sys2Proof

/-- Unsigned 8-bit quantity: a speed step, a sampler count, an operand (R7, R8). -/
abbrev U8 := BitVec 8

/-- Unsigned 16-bit quantity: a table entry, a PWM level, a command word (R7, R8). -/
abbrev U16 := BitVec 16

/-- Unsigned 32-bit quantity: response data, the error bitmask, a delay (R8). -/
abbrev U32 := BitVec 32

/-- An IEEE 754 binary32 value by its fields (R18): the sign bit, the 8 exponent bits, and the 23 fraction
bits as the most significant one and the 22 others.  Every combination is a value, so a register of this
type holds any 32-bit pattern (`F32.bits` is the pattern). -/
structure F32 where
  /-- Bit 31. -/
  neg : Bool
  /-- Bits 30..23. -/
  exp : BitVec 8
  /-- Bit 22, the most significant fraction bit. -/
  fracTop : Bool
  /-- Bits 21..0. -/
  fracLow : BitVec 22
  deriving DecidableEq, Repr

end Sys2Proof
end

