-- ==== Sys2Proof/Syntax.lean ====
section
/-! DEFINITION. The 21 commands of the command set PDC-1 as syntax (spec/30_encoding.md rule R114), the two
command ports (R101) and the port sets of R103. -/

namespace Sys2Proof

/-- A command of PDC-1, one constructor per row of the command map (R114).  The operand types are the
operand formats: S, K, V and X are a byte (R107, R110, R111, R112), E a bit index 0..31 (R108), B a boolean
(R109), N nothing (R106). -/
inductive Instr where
  | directionOf (ss : U8)
  | tableIndexOf (ss : U8)
  | decodeStep (ss : U8)
  | init
  | ctrlTick
  | rampTick
  | measure (kk : U8)
  | getKp (vv : U8)
  | getInitialLevel
  | setError (b : BitVec 5)
  | clearError (b : BitVec 5)
  | clearAllErrors
  | getErrorState
  | wrTarget (ss : U8)
  | wrSetupDone (v : Bool)
  | wrFseDone (v : Bool)
  | rdTarget
  | rdTargetPrev
  | rdSetupDone
  | rdFseDone
  | rdState (xx : U8)
  deriving DecidableEq, Repr

/-- The two command ports (R101): `c` for the control core and the two periodic drivers, `d` for the decode
core. -/
inductive Port where
  | c
  | d
  deriving DecidableEq, Repr

/-- The ports a command is allowed on (R103). -/
inductive PortSet where
  | onlyC
  | onlyD
  | both
  deriving DecidableEq, Repr

end Sys2Proof
end

