-- ==== Sys2Proof/Machine/RegMap.lean ====
section
/-! DEFINITION. The reserved numbers of the state register space (spec/10_state.md rule R30, listed in
spec/45_shared_and_error_ops.md rule R250). -/

namespace Sys2Proof.Machine

/-- "the reserved indices are `0x7F`, `0x9C..0x9F`, `0xAF`, `0xB8..0xBF`, `0xC9..0xCF`, `0xD5..0xFF`" (R250). -/
def reservedIndex (xx : U8) : Bool :=
  let i := xx.toNat
  i == 0x7F || (0x9C ≤ i && i ≤ 0x9F) || i == 0xAF || (0xB8 ≤ i && i ≤ 0xBF) ||
    (0xC9 ≤ i && i ≤ 0xCF) || 0xD5 ≤ i

end Sys2Proof.Machine
end

