-- ==== Sys2Proof/WellFormed.lean ====
section
/-! DEFINITION. Well-formed commands.  The operand types already carry formats S, K, V, N, E and B; the one
check beyond them is format X: "A reserved index makes the word `ILLEGAL`" (spec/30_encoding.md rule R112). -/

namespace Sys2Proof

/-- The command can be spelt by a legal word (R106 to R112, R118). -/
def Instr.wf : Instr → Bool
  | .rdState xx => !Machine.reservedIndex xx
  | .directionOf _ | .tableIndexOf _ | .decodeStep _ | .init | .ctrlTick | .rampTick | .measure _ | .getKp _
  | .getInitialLevel | .setError _ | .clearError _ | .clearAllErrors | .getErrorState | .wrTarget _
  | .wrSetupDone _ | .wrFseDone _ | .rdTarget | .rdTargetPrev | .rdSetupDone | .rdFseDone => true

end Sys2Proof
end

