-- ==== Sys2Proof/Decode.lean ====
section
/-! DEFINITION. The decoder of command words, total and rejecting by name, then the encoder
(spec/30_encoding.md rules R100, R102, R106 to R114, R118), and the port permission of each command (R103). -/

namespace Sys2Proof

/-- Why a word is `ILLEGAL` (R118). -/
inductive Illegal where
  /-- `word[15:8]` is not one of the 21 opcodes (R118 (a)). -/
  | unassignedOpcode (opcode : U8)
  /-- `imm8` breaks the reserved-bit rule of format N, E or B (R118 (b), R106, R108, R109). -/
  | reservedBits (opcode : U8) (imm8 : U8)
  /-- `imm8` names a reserved register (R118 (b), R112). -/
  | reservedRegister (index : U8)
  deriving DecidableEq, Repr

/-- `word[15:8]`: group and func together (R102). -/
def opcodeField (w : U16) : U8 := w.extractLsb' 8 8

/-- `word[7:0]` (R102). -/
def imm8Field (w : U16) : U8 := w.extractLsb' 0 8

/-- Format N: "`imm8` must be `0x00`" (R106). -/
def formatN (w : U16) (i : Instr) : Except Illegal Instr :=
  if imm8Field w = 0 then .ok i else .error (.reservedBits (opcodeField w) (imm8Field w))

/-- Format E: "`imm8[7:5]` must be 0" (R108). -/
def formatE (w : U16) (f : BitVec 5 → Instr) : Except Illegal Instr :=
  if (imm8Field w).extractLsb' 5 3 = 0 then .ok (f ((imm8Field w).extractLsb' 0 5))
  else .error (.reservedBits (opcodeField w) (imm8Field w))

/-- Format B: "`imm8[7:1]` must be 0" (R109). -/
def formatB (w : U16) (f : Bool → Instr) : Except Illegal Instr :=
  if (imm8Field w).extractLsb' 1 7 = 0 then .ok (f ((imm8Field w).getLsbD 0))
  else .error (.reservedBits (opcodeField w) (imm8Field w))

/-- Format X: "A reserved index makes the word `ILLEGAL`" (R112). -/
def formatX (w : U16) (f : U8 → Instr) : Except Illegal Instr :=
  if Machine.reservedIndex (imm8Field w) then .error (.reservedRegister (imm8Field w)) else .ok (f (imm8Field w))

/-- The decoding procedure, steps (1) and (2) of R113, over the command map of R114.  Formats S, K and V take
the byte as it is (R107, R110, R111). -/
def decode (w : U16) : Except Illegal Instr :=
  match (opcodeField w).toNat with
  | 0x00 => .ok (.directionOf (imm8Field w))
  | 0x01 => .ok (.tableIndexOf (imm8Field w))
  | 0x02 => .ok (.decodeStep (imm8Field w))
  | 0x10 => formatN w .init
  | 0x11 => formatN w .ctrlTick
  | 0x12 => formatN w .rampTick
  | 0x20 => .ok (.measure (imm8Field w))
  | 0x30 => .ok (.getKp (imm8Field w))
  | 0x31 => formatN w .getInitialLevel
  | 0x40 => formatE w .setError
  | 0x41 => formatE w .clearError
  | 0x42 => formatN w .clearAllErrors
  | 0x43 => formatN w .getErrorState
  | 0x50 => .ok (.wrTarget (imm8Field w))
  | 0x51 => formatB w .wrSetupDone
  | 0x52 => formatB w .wrFseDone
  | 0x53 => formatN w .rdTarget
  | 0x54 => formatN w .rdTargetPrev
  | 0x55 => formatN w .rdSetupDone
  | 0x56 => formatN w .rdFseDone
  | 0x60 => formatX w .rdState
  | _ => .error (.unassignedOpcode (opcodeField w))

/-- The opcode of a command, `word[15:8]` of its row of R114. -/
def Instr.opcode : Instr → U8
  | .directionOf _ => 0x00
  | .tableIndexOf _ => 0x01
  | .decodeStep _ => 0x02
  | .init => 0x10
  | .ctrlTick => 0x11
  | .rampTick => 0x12
  | .measure _ => 0x20
  | .getKp _ => 0x30
  | .getInitialLevel => 0x31
  | .setError _ => 0x40
  | .clearError _ => 0x41
  | .clearAllErrors => 0x42
  | .getErrorState => 0x43
  | .wrTarget _ => 0x50
  | .wrSetupDone _ => 0x51
  | .wrFseDone _ => 0x52
  | .rdTarget => 0x53
  | .rdTargetPrev => 0x54
  | .rdSetupDone => 0x55
  | .rdFseDone => 0x56
  | .rdState _ => 0x60

/-- The operand byte `imm8` of a command (R106 to R112). -/
def Instr.imm8 : Instr → U8
  | .directionOf ss | .tableIndexOf ss | .decodeStep ss | .wrTarget ss => ss
  | .measure kk => kk
  | .getKp vv => vv
  | .rdState xx => xx
  | .setError b | .clearError b => 0#3 ++ b
  | .wrSetupDone v | .wrFseDone v => 0#7 ++ BitVec.ofBool v
  | .init | .ctrlTick | .rampTick | .getInitialLevel | .clearAllErrors | .getErrorState | .rdTarget
  | .rdTargetPrev | .rdSetupDone | .rdFseDone => 0

/-- The word of a command: `group ++ func ++ imm8` (R102). -/
def encode (i : Instr) : U16 := i.opcode ++ i.imm8

/-- The ports column of R114 (R103, R290). -/
def Instr.ports : Instr → PortSet
  | .directionOf _ | .tableIndexOf _ | .decodeStep _ => .both
  | .init | .ctrlTick | .rampTick | .measure _ | .getKp _ | .getInitialLevel => .onlyC
  | .setError _ | .clearError _ | .clearAllErrors | .getErrorState => .both
  | .wrTarget _ | .wrSetupDone _ => .onlyD
  | .wrFseDone _ => .onlyC
  | .rdTarget | .rdTargetPrev | .rdSetupDone | .rdFseDone => .both
  | .rdState _ => .onlyC

/-- The decoder on a word numbered as the opcode table numbers it: a command is one 16-bit word (R100), so the
table's numbering is the word's own. -/
def decodeTableWord (nbits w : Nat) : Option Instr :=
  if w % 2 ^ nbits < 2 ^ 16 then
    match decode (BitVec.ofNat 16 (w % 2 ^ nbits)) with
    | .ok i => some i
    | .error _ => none
  else none

end Sys2Proof
end

