-- ==== Sys2Proof/Config.lean ====
section
/-! DEFINITION. What the spec fixes as a number, what it leaves to a parameter, and the free values
(spec/00_scope.md rules R7 to R9, R14; the assumption log names every free value). -/

namespace Sys2Proof

/-- Travelling direction, coded 0 Reverse and 1 Forward (R116). -/
inductive Direction where
  | reverse
  | forward
  deriving DecidableEq, Repr

/-- The four binary32 operations that can deliver a NaN (R19). -/
inductive FloatOp where
  | add
  | sub
  | mul
  | div
  deriving DecidableEq, Repr

/-- The identifier of an ADC input (R9, R73). -/
abbrev PinId := Nat

/-- The open parameters of R9 (the `Config` record apart, which is `CvConfig`), held as plain data so that a statement
about every state is a statement about every choice of them.  No step changes them. -/
structure Params where
  /-- `MAX_SAMPLES - 1`: the capacity of the sample buffer is 1..255 (R9). -/
  maxSamplesPred : Fin 255
  /-- `ADC_BITS - 1`: the width of one ADC sample is 1..24 (R9, R22 (e)). -/
  adcBitsPred : Fin 24
  /-- `SENSE_PIN[Reverse]` (R9, R73). -/
  senseReverse : PinId
  /-- `SENSE_PIN[Forward]` (R9, R73). -/
  senseForward : PinId
  /-- `DEFAULT_DIRECTION`, "the direction used when a direction code is invalid" (R9, R141). -/
  defaultDirection : Direction
  /-- `T_TICK`, the control-tick period; "No rule of the model depends on `T_TICK` or `T_RAMP`" (R9). -/
  tTick : Nat
  /-- `T_RAMP`, the ramp period (R9). -/
  tRamp : Nat
  deriving DecidableEq, Repr

/-- The record `INIT` reads through `CvRead` (R201): the values after the conversion from CVs, which the
spec leaves outside the CORE. -/
structure CvConfig where
  speedTable : Vector U16 127
  kI : F32
  kD : F32
  t : F32
  tau : F32
  intLimMin : F32
  intLimMax : F32
  maxOutput : F32
  x1Shift : F32
  x1 : F32
  x2 : F32
  y0 : F32
  y1 : F32
  y2 : F32
  kFf : F32
  rampStep : U16
  adcOffset : F32
  delayUs : U32
  totalIterations : U8
  leftCutoff : U8
  rightCutoff : U8
  rampDelay : U16
  deriving DecidableEq, Repr

/-- FREE VALUE: the sample the ADC oracle answers from a pin, as the `k`-th answer that is not known (R145, S13; that it
depends on the pin and on `k` alone is a DESIGN CHOICE, log entry 4). -/
opaque Config.adcSample : PinId → Nat → Nat

/-- FREE VALUE: the fault bit of that answer (R145; log entry 4). -/
opaque Config.adcFault : PinId → Nat → Bool

/-- FREE VALUE: the sign bit of the NaN an operation delivers; R18 and R19 do not state it (log entry 7). -/
opaque Config.nanSign : FloatOp → F32 → F32 → Bool

/-- FREE VALUE: the low fraction bits of the NaN an operation delivers; R18 and R19 do not state them (log
entry 7). -/
opaque Config.nanPayload : FloatOp → F32 → F32 → BitVec 22

/-- FREE VALUE: `trunc_u16` outside its domain, where R21 says "the function is not defined" (log entry 8). -/
opaque Config.truncUndefined : F32 → U16

end Sys2Proof
end

