-- ==== Sys2Proof/Machine/State.lean ====
section
/-! DEFINITION. The state of the CORE as plain data (spec/10_state.md; INVENTORY.md, heading State), its reset value
(rules R62, R301), and the outcomes of a step. -/

namespace Sys2Proof

/-- `+0.0`, `0x00000000` (R23). -/
def F32.zero : F32 := { neg := false, exp := 0, fracTop := false, fracLow := 0 }

/-- The CV store of a machine nobody has configured: every field zero (DESIGN CHOICE, log entry 5). -/
def CvConfig.blank : CvConfig :=
  { speedTable := .replicate 127 0
    kI := F32.zero, kD := F32.zero, t := F32.zero, tau := F32.zero
    intLimMin := F32.zero, intLimMax := F32.zero, maxOutput := F32.zero
    x1Shift := F32.zero, x1 := F32.zero, x2 := F32.zero, y0 := F32.zero, y1 := F32.zero, y2 := F32.zero
    kFf := F32.zero, rampStep := 0, adcOffset := F32.zero
    delayUs := 0, totalIterations := 0, leftCutoff := 0, rightCutoff := 0, rampDelay := 0 }

end Sys2Proof

namespace Sys2Proof.Machine

/-- Operating mode: 0 Startup, 1 Pid (R32). -/
inductive Mode where
  | startup
  | pid
  deriving DecidableEq, Repr

/-- The status codes of a response (R105); codes 5 to 7 are never returned. -/
inductive Status where
  | ok
  | illegal
  | denied
  | notReady
  | fault
  deriving DecidableEq, Repr

/-- The response of a command: 3-bit status and 32 data bits (R104). -/
structure Response where
  status : Status
  data : U32
  deriving DecidableEq, Repr

/-- An entry of the peripheral event history (R17, R74, R280 to R283). -/
inductive PeriphEvent where
  | setPwm (level : U16)
  | disableDrive
  | enableDrive
  | waitUs (n : U32)
  | readAdc (pin : PinId)
  deriving DecidableEq, Repr

/-- The four shared fields that exist in two copies (R50, R51). -/
inductive SharedField where
  | target
  | prev
  | setup
  | fse
  deriving DecidableEq, Repr

/-- A shared field: the writer's copy and the reader's copy (R51, R76). -/
structure Synced (α : Type) where
  w : α
  r : α
  deriving DecidableEq, Repr

/-- One answer of the ADC driver: the sample and the fault bit (R145). -/
structure AdcAnswer where
  sample : Nat
  fault : Bool
  deriving DecidableEq, Repr

/-- What the outside world does next (R10, R15): a host presents a command word at a port (R101), a
synchroniser takes its step (R77), the one reset event happens (R300), the CV store behind `INIT` comes to
hold other values (R72, R200), or the ADC driver's next answers are known (the `ADC` line of R121). -/
inductive Input where
  | command (p : Port) (w : U16)
  | sync (f : SharedField)
  | reset
  | cvStore (c : CvConfig)
  | adc (answers : List AdcAnswer)
  deriving DecidableEq, Repr

/-- `StartupState` with the ring of learned levels (R41 to R43). -/
structure StartupState where
  /-- `base_pwm_history[0..15]`, indices 0x80..0x8F. -/
  history : Vector U16 16
  /-- 0x94 `startup.hist_idx`, the slot the next handoff writes. -/
  histIdx : Fin 16
  /-- 0x95 `startup.hist_count`, the number of populated slots, 0..16. -/
  histCount : Fin 17
  /-- 0x93 `startup.level`. -/
  level : U16
  /-- 0x96 `startup.k_ff`. -/
  kFf : F32
  /-- 0x97 `startup.ramp_step`. -/
  rampStep : U16
  /-- 0x98 `startup.seeded`. -/
  seeded : Bool
  deriving DecidableEq, Repr

/-- `PidState` (R45 to R49), indices 0xA0..0xB7. -/
structure PidState where
  kP : F32
  kI : F32
  kD : F32
  t : F32
  tau : F32
  ci0 : F32
  cd0 : F32
  cd1 : F32
  intLimMin : F32
  intLimMax : F32
  maxOutput : F32
  e : F32
  ePrev : F32
  iPrev : F32
  dPrev : F32
  x1Shift : F32
  x1 : F32
  x2 : F32
  y0 : F32
  y1 : F32
  y2 : F32
  m1 : F32
  m2 : F32
  deriving DecidableEq, Repr

/-- The measurement registers (R36), indices 0xC0..0xC3. -/
structure MeasState where
  raw : F32
  rawPrev : F32
  corrected : F32
  adcOffset : F32
  deriving DecidableEq, Repr

/-- The sampler's configuration registers (R37), indices 0xC4..0xC7. -/
structure BemfState where
  delayUs : U32
  totalIterations : U8
  leftCutoff : U8
  rightCutoff : U8
  deriving DecidableEq, Repr

/-- Everything the spec gives the machine, and below it what stands for the machine's surroundings. -/
structure State where
  /-- 0x00..0x7E `speed_table[0..126]` (R35). -/
  speedTable : Vector U16 127
  /-- 0x90 `mode` (R32). -/
  mode : Mode
  /-- 0x91 `feed_forward` (R33). -/
  feedForward : F32
  /-- 0x92 `setpoint`, a table index 0..126 (R34). -/
  setpoint : Fin 127
  /-- `StartupState` (R41 to R43). -/
  startup : StartupState
  /-- `PidState` (R45 to R49). -/
  pid : PidState
  /-- The measurement registers (R36). -/
  meas : MeasState
  /-- The sampler's configuration (R37). -/
  bemf : BemfState
  /-- 0xC8 `ramp_delay` (R38). -/
  rampDelay : U16
  /-- 0x99 `pwm_level` (R44). -/
  pwmLevel : U16
  /-- 0x9A `drive_enabled` (R44). -/
  driveEnabled : Bool
  /-- 0x9B `initialised` (R44). -/
  initialised : Bool
  /-- `speed_step_target`: decode core's copy and 0xD0 (R50, R51). -/
  target : Synced U8
  /-- `speed_step_target_prev`: decode core's copy and 0xD1 (R50, R51). -/
  prev : Synced U8
  /-- `cv_setup_check_done`: decode core's copy and 0xD2 (R50, R51). -/
  setup : Synced Bool
  /-- `flash_safe_execute_core_init_done`: 0xD3 and the decode core's copy (R50, R51). -/
  fse : Synced Bool
  /-- 0xD4 `error_state` (R52). -/
  errorState : U32
  /-- The peripheral event history, oldest first (R17, R55 (d)). -/
  events : List PeriphEvent
  /-- The last response returned on port C, none before the first (R101, R104). -/
  respC : Option Response
  /-- The last response returned on port D, none before the first (R101, R104). -/
  respD : Option Response
  /-- The port the command being executed arrived on (R101: "Which port a word arrived on is part of the
  decoder's input"). -/
  port : Port
  /-- MODEL'S OWN: what the outside world does next, first entry first (R10, R15; log entry 2). -/
  inputs : List Input
  /-- MODEL'S OWN: the record `CvRead` returns (R72, R201; log entry 5). -/
  cv : CvConfig
  /-- MODEL'S OWN: the ADC driver's next answers, where they are known (R145; log entry 4). -/
  adcAnswers : List AdcAnswer
  /-- MODEL'S OWN: how many unscripted ADC answers have been drawn (log entry 4). -/
  adcDraws : Nat
  /-- MODEL'S OWN: the open parameters (R9; log entry 6). -/
  params : Params
  deriving DecidableEq, Repr

/-- Reasons the machine stops with a fault: there are none.  "No command traps, halts or hangs the CORE" (R13);
the status `FAULT` is a recorded fault, a next state with an error bit set. -/
inductive Fault where
  deriving DecidableEq, Repr

/-- Reasons a step has no meaning. -/
inductive Refusal where
  /-- Raised by `exec`'s arm of a command that has no meaning yet; safe, since nothing is claimed of it.  No
  arm raises it in this model. -/
  | notModelled (mnemonic : String)
  deriving DecidableEq, Repr

/-- The machine right after reset: "all integers 0, all `f32` registers +0.0, `mode = Startup`" (R62, R301).
The last six fields are the surroundings: nothing is presented yet; of the open parameters `DEFAULT_DIRECTION` has
the value the spec sets (R9), the two sizes the values R9 suggests, and the pins and periods values of the model's
(DESIGN CHOICE, log entries 6, 12 and 13). -/
def State.reset : State :=
  { speedTable := .replicate 127 0
    mode := .startup
    feedForward := F32.zero
    setpoint := 0
    startup :=
      { history := .replicate 16 0, histIdx := 0, histCount := 0, level := 0, kFf := F32.zero, rampStep := 0,
        seeded := false }
    pid :=
      { kP := F32.zero, kI := F32.zero, kD := F32.zero, t := F32.zero, tau := F32.zero
        ci0 := F32.zero, cd0 := F32.zero, cd1 := F32.zero
        intLimMin := F32.zero, intLimMax := F32.zero, maxOutput := F32.zero
        e := F32.zero, ePrev := F32.zero, iPrev := F32.zero, dPrev := F32.zero
        x1Shift := F32.zero, x1 := F32.zero, x2 := F32.zero, y0 := F32.zero, y1 := F32.zero, y2 := F32.zero
        m1 := F32.zero, m2 := F32.zero }
    meas := { raw := F32.zero, rawPrev := F32.zero, corrected := F32.zero, adcOffset := F32.zero }
    bemf := { delayUs := 0, totalIterations := 0, leftCutoff := 0, rightCutoff := 0 }
    rampDelay := 0
    pwmLevel := 0
    driveEnabled := false
    initialised := false
    target := { w := 0, r := 0 }
    prev := { w := 0, r := 0 }
    setup := { w := false, r := false }
    fse := { w := false, r := false }
    errorState := 0
    events := []
    respC := none
    respD := none
    port := .c
    inputs := []
    cv := CvConfig.blank
    adcAnswers := []
    adcDraws := 0
    params :=
      { maxSamplesPred := 254, adcBitsPred := 11, senseReverse := 0, senseForward := 1, defaultDirection := .forward
        tTick := 0, tRamp := 0 } }

end Sys2Proof.Machine
end

