-- ==== Sys2Proof/Machine/Flags.lean ====
section
/-! DEFINITION. The one-bit status of the CORE: the bits of `error_state` (spec/60_exceptions.md rule R260,
spec/20_memory.md rule R82), and the codes of status and mode (R105, R32).  The CORE has no condition codes
(R53). -/

namespace Sys2Proof.Machine

/-- The named error bits (R260); bits 7 to 31 have no name. -/
inductive ErrorBit where
  | pwmInitFailure
  | adcInitFailure
  | storageFailure
  | invalidDirection
  | watchdogReboot
  | configError
  | measurementFault
  deriving DecidableEq, Repr

/-- The bit column of R260. -/
def ErrorBit.index : ErrorBit → BitVec 5
  | .pwmInitFailure => 0
  | .adcInitFailure => 1
  | .storageFailure => 2
  | .invalidDirection => 3
  | .watchdogReboot => 4
  | .configError => 5
  | .measurementFault => 6

/-- `1 << b` (R240, R241). -/
def errorMask (b : BitVec 5) : U32 := 1#32 <<< b.toNat

/-- `error_state | (1 << b)`: `SET_ERROR b` and every `raise` (R82). -/
def setErrorBit (e : U32) (b : BitVec 5) : U32 := e ||| errorMask b

/-- `error_state & ~(1 << b)`: `CLEAR_ERROR b` (R82). -/
def clearErrorBit (e : U32) (b : BitVec 5) : U32 := e &&& ~~~ errorMask b

/-- The status codes (R105). -/
def Status.code : Status → BitVec 3
  | .ok => 0
  | .illegal => 1
  | .denied => 2
  | .notReady => 3
  | .fault => 4

/-- The mode encoding (R32). -/
def Mode.bit : Mode → BitVec 1
  | .startup => 0
  | .pid => 1

end Sys2Proof.Machine
end

