-- ==== Sys2Proof/Machine/Operands.lean ====
section
/-! DEFINITION. Operand forms and pure functions of an operand: the speed-step codec (spec/40_codec.md rules R130
to R133), the direction code (R116, R141), the sense pin of a direction (R73), and the port sets (R103). -/

namespace Sys2Proof

/-- The direction code: 0 Reverse, 1 Forward (R116). -/
def Direction.code : Direction → BitVec 1
  | .reverse => 0
  | .forward => 1

/-- `SENSE_PIN[d]` (R9, R73): "direction selects which of two sense pins is read". -/
def Params.sensePin (p : Params) : Direction → PinId
  | .reverse => p.senseReverse
  | .forward => p.senseForward

/-- Whether a port is in a set (R103). -/
def PortSet.allows : PortSet → Port → Bool
  | .onlyC, .c => true
  | .onlyC, .d => false
  | .onlyD, .c => false
  | .onlyD, .d => true
  | .both, _ => true

end Sys2Proof

namespace Sys2Proof.Machine

/-- `zext_32` (R17). -/
def zext32 {n : Nat} (v : BitVec n) : U32 := v.setWidth 32

/-- `direction_of(step)`: "returns Forward if `step >= 128` else Reverse" (R131). -/
def directionOf (step : U8) : Direction := if 128 ≤ step.toNat then .forward else .reverse

/-- `step_index_of(step) = step[6:0]` (R133). -/
def stepIndexOf (step : U8) : BitVec 7 := step.extractLsb' 0 7

/-- `table_index_of(step)`: 0 for stop and emergency stop, `s - 1` otherwise; range 0..126 (R132). -/
def tableIndexOf (step : U8) : Fin 127 :=
  let s := step.toNat % 128
  if s ≤ 1 then 0 else ⟨s - 1, by omega⟩

/-- `class_of(step)`: 0 STOP, 1 ESTOP, 2 STEP (R117, R133). -/
def classOf (step : U8) : BitVec 2 :=
  if stepIndexOf step = 0 then 0 else if stepIndexOf step = 1 then 1 else 2

/-- The data of `DECODE_STEP`: `[6:0]` table index, `[13:7]` step index, `[15:14]` class, `[16]` direction (R123,
R136). -/
def decodeStepData (step : U8) : U32 :=
  zext32 ((directionOf step).code ++ classOf step ++ stepIndexOf step ++ BitVec.ofNat 7 (tableIndexOf step).val)

/-- `decode_direction(kk)` where the code is valid: 0 Reverse, 1 Forward (R110, R116); none is an invalid code,
for which `MEASURE` raises `INVALID_DIRECTION` (R141). -/
def directionOfCode (kk : U8) : Option Direction :=
  if kk = 0 then some .reverse else if kk = 1 then some .forward else none


end Sys2Proof.Machine
end

