-- ==== Sys2Proof/Machine/Ops.lean ====
section
/-! DEFINITION. The shared operations over the state: responses and port permission (spec/30_encoding.md rules R103
to R105), the peripheral events (R17, R74), the ADC read (R145), `raise` (R265), the synchroniser step (R77)
and the reset event (R300 to R303). -/

namespace Sys2Proof.Machine

/-- The outcome of a command or a step. -/
abbrev Result := Host.Outcome State Fault Refusal

/-- Return the response `(status, data)` on the port the command arrived on (R101, R104). -/
def State.respond (s : State) (status : Status) (data : U32) : State :=
  match s.port with
  | .c => { s with respC := some { status, data } }
  | .d => { s with respD := some { status, data } }

/-- The last response on a port. -/
def State.response (s : State) : Port → Option Response
  | .c => s.respC
  | .d => s.respD

/-- Port permission: "A command that decodes correctly but arrived on a port that may not use it returns status
`DENIED` with data 0 and changes no state" (R103); on a permitted port the command's body runs. -/
def onPorts (ports : PortSet) (s : State) (body : State → State) : Result :=
  .next (if ports.allows s.port then body s else s.respond .denied 0)

/-- `emit <event>`: append to the peripheral event history (R17). -/
def State.emit (s : State) (e : PeriphEvent) : State := { s with events := s.events ++ [e] }

/-- `pwm_level <- level; emit set_pwm(level)`: the shadow register holds the level of the last `set_pwm` (R44,
R281). -/
def State.setPwm (s : State) (level : U16) : State := { s with pwmLevel := level }.emit (.setPwm level)

/-- `emit enable_drive; drive_enabled <- 1` (R44, R282). -/
def State.enableDrive (s : State) : State := { s with driveEnabled := true }.emit .enableDrive

/-- `emit disable_drive; drive_enabled <- 0` (R44, R143, R282). -/
def State.disableDrive (s : State) : State := { s with driveEnabled := false }.emit .disableDrive

/-- `raise X`, the place of exception entry (R265): "one atomic `error_state <- error_state | mask(X)` … after
which the command continues with the safe action its rule states. Nothing is saved, no mode changes, no mask
changes, no control goes to a handler or a vector". -/
def State.raise (s : State) (x : ErrorBit) : State := { s with errorState := setErrorBit s.errorState x.index }

/-- The place of exception return (R267): "What corresponds to acknowledging a fault is `CLEAR_ERROR b` or
`CLEAR_ALL_ERRORS` …, which clear bits and restore nothing." -/
def State.acknowledge (s : State) (b : BitVec 5) : State := { s with errorState := clearErrorBit s.errorState b }

/-- `MAX_SAMPLES` (R9). -/
def State.maxSamples (s : State) : Nat := s.params.maxSamplesPred.val + 1

/-- `ADC_BITS` (R9). -/
def State.adcBits (s : State) : Nat := s.params.adcBitsPred.val + 1

/-- `AdcRead(pin)`: emits `read_adc(pin)` and draws an answer of the oracle (R145): the driver's next known answer,
or a free value where none is known; the sample is a number of `ADC_BITS` bits.  DESIGN CHOICE (log entry 4): the
free value is a function of the pin and of the count of free answers drawn so far, and of nothing else. -/
def adcRead (pin : PinId) (s : State) : AdcAnswer × State :=
  match s.adcAnswers with
  | a :: rest =>
    ({ a with sample := a.sample % 2 ^ s.adcBits }, { s with adcAnswers := rest }.emit (.readAdc pin))
  | [] =>
    ({ sample := Config.adcSample pin s.adcDraws % 2 ^ s.adcBits, fault := Config.adcFault pin s.adcDraws },
      { s with adcDraws := s.adcDraws + 1 }.emit (.readAdc pin))

/-- `n` reads of one pin, in sequence, with their answers in the same order (R144). -/
def adcReads (pin : PinId) : Nat → State → List AdcAnswer × State
  | 0, s => ([], s)
  | n + 1, s =>
    let (a, s') := adcRead pin s
    let (as, s'') := adcReads pin n s'
    (a :: as, s'')

/-- The synchroniser step `SYNC(F)`: `F.r <- F.w`, and nothing else changes (R77). -/
def State.sync (s : State) : SharedField → State
  | .target => { s with target := { s.target with r := s.target.w } }
  | .prev => { s with prev := { s.prev with r := s.prev.w } }
  | .setup => { s with setup := { s.setup with r := s.setup.w } }
  | .fse => { s with fse := { s.fse with r := s.fse.w } }

/-- The event `RESET` (R300 to R303): every register takes its reset value, the event history is empty and no
response is outstanding.  The surroundings (what the outside world does next, the CV store, the ADC driver,
the open parameters) are not the CORE's and stay. -/
def State.applyReset (s : State) : State :=
  { State.reset with
    inputs := s.inputs
    cv := s.cv
    adcAnswers := s.adcAnswers
    adcDraws := s.adcDraws
    params := s.params }

end Sys2Proof.Machine
end

