-- ==== Sys2Proof/Machine/Codec.lean ====
section
/-! DEFINITION. The speed-step codec commands (spec/40_codec.md rules R134 to R136). -/

namespace Sys2Proof.Machine

/-- `DIRECTION_OF ss`: `return (OK, zext_32(direction_of(ss)))` (R134). -/
def execDirectionOf (ss : U8) (s : State) : Result :=
  onPorts .both s fun s => s.respond .ok (zext32 (directionOf ss).code)

/-- `TABLE_INDEX_OF ss`: `return (OK, zext_32(table_index_of(ss)))` (R135). -/
def execTableIndexOf (ss : U8) (s : State) : Result :=
  onPorts .both s fun s => s.respond .ok (BitVec.ofNat 32 (tableIndexOf ss).val)

/-- `DECODE_STEP ss`: the whole lookup in one response (R136). -/
def execDecodeStep (ss : U8) (s : State) : Result :=
  onPorts .both s fun s => s.respond .ok (decodeStepData ss)

end Sys2Proof.Machine
end

