-- ==== Sys2Proof/Machine/Float.lean ====
section
/-! DEFINITION. Binary32 arithmetic (spec/00_scope.md rules R18 to R21, R23): exact integers in units of `2^-149`,
the smallest positive binary32 value, then one rounding to nearest, ties to even. -/

namespace Sys2Proof

/-- The 23 fraction bits as a number (R18). -/
def F32.frac (x : F32) : Nat := (if x.fracTop then 2 ^ 22 else 0) + x.fracLow.toNat

/-- Bits 30..0 as a number: the magnitude's position among all binary32 magnitudes. -/
def F32.mag (x : F32) : Nat := x.exp.toNat * 2 ^ 23 + x.frac

/-- The value with sign `neg` and magnitude bits `m` (below `2^31`). -/
def F32.ofMag (neg : Bool) (m : Nat) : F32 :=
  { neg, exp := BitVec.ofNat 8 (m / 2 ^ 23), fracTop := m / 2 ^ 22 % 2 == 1, fracLow := BitVec.ofNat 22 m }

/-- The binary32 bit pattern (R18, R104). -/
def F32.bits (x : F32) : U32 := BitVec.ofNat 32 ((if x.neg then 2 ^ 31 else 0) + x.mag)

/-- The value with a given bit pattern (R18). -/
def F32.ofBits (b : U32) : F32 := F32.ofMag (2 ^ 31 ≤ b.toNat) (b.toNat % 2 ^ 31)

/-- NaN: exponent all ones, fraction not zero (R18). -/
def F32.isNaN (x : F32) : Bool := x.exp == 0xFF && (x.fracTop || x.fracLow != 0)

/-- An infinity: exponent all ones, fraction zero (R18). -/
def F32.isInf (x : F32) : Bool := x.exp == 0xFF && !(x.fracTop || x.fracLow != 0)

/-- "finite (neither NaN nor an infinity)" (R202). -/
def F32.isFinite (x : F32) : Bool := x.exp != 0xFF

/-- The magnitude of a finite value in units of `2^-149`: subnormals are kept (R18). -/
def F32.units (x : F32) : Nat := if x.exp = 0 then x.frac else (2 ^ 23 + x.frac) * 2 ^ (x.exp.toNat - 1)

/-- The value of a finite `x` in units of `2^-149`. -/
def F32.value (x : F32) : Int := if x.neg then -(x.units : Int) else x.units

/-- Magnitude bits of the binary32 value nearest to `n / d` units of `2^-149`, ties to even (R19).  Consecutive
magnitudes have consecutive bits, so the carry of a rounding up needs no case; what rounds past the largest
finite magnitude is the infinity `0x7F800000`. -/
def roundMag (n d : Nat) : Nat :=
  let shift := (n / d).log2 - 23
  let unit := d * 2 ^ shift
  let m := n / unit
  let r := n % unit
  let up := unit < 2 * r ∨ (2 * r = unit ∧ m % 2 = 1)
  min (shift * 2 ^ 23 + m + (if up then 1 else 0)) 0x7F800000

/-- `±n/d` units of `2^-149`, rounded to nearest, ties to even (R19). -/
def roundF32 (neg : Bool) (n d : Nat) : F32 := F32.ofMag neg (roundMag n d)

/-- An infinity. -/
def F32.inf (neg : Bool) : F32 := { neg, exp := 0xFF, fracTop := false, fracLow := 0 }

/-- A signed zero (R18: "there are two zeros"). -/
def F32.signedZero (neg : Bool) : F32 := { neg, exp := 0, fracTop := false, fracLow := 0 }

/-- The NaN that operation `op` delivers: quiet (PRESUMED, IEEE 754-2008), with a sign and payload the spec does
not state (free values, log entry 7). -/
def nanResult (op : FloatOp) (a b : F32) : F32 :=
  { neg := Config.nanSign op a b, exp := 0xFF, fracTop := true, fracLow := Config.nanPayload op a b }

/-- The value with its sign turned round. -/
def F32.negate (x : F32) : F32 := { x with neg := !x.neg }

/-- The sum of two finite values: exact, then rounded.  An exact zero sum is `+0.0` unless both are `-0.0`
(IEEE 754, round to nearest; log entry 9). -/
def addFinite (a b : F32) : F32 :=
  let s := a.value + b.value
  if s = 0 then F32.signedZero (a.neg && b.neg) else roundF32 (s < 0) s.natAbs 1

/-- The sum of two operands that are not NaN; `nan` is delivered for infinities of opposite sign. -/
def addNumbers (nan a b : F32) : F32 :=
  if a.isInf then (if b.isInf && a.neg != b.neg then nan else a)
  else if b.isInf then b
  else addFinite a b

/-- `fadd` (R19). -/
def fadd (a b : F32) : F32 :=
  if a.isNaN || b.isNaN then nanResult .add a b else addNumbers (nanResult .add a b) a b

/-- `fsub` (R19). -/
def fsub (a b : F32) : F32 :=
  if a.isNaN || b.isNaN then nanResult .sub a b else addNumbers (nanResult .sub a b) a b.negate

/-- `fmul` (R19): infinity times zero is NaN. -/
def fmul (a b : F32) : F32 :=
  if a.isNaN || b.isNaN then nanResult .mul a b
  else if a.isInf || b.isInf then
    (if a.units = 0 || b.units = 0 then nanResult .mul a b else F32.inf (a.neg != b.neg))
  else roundF32 (a.neg != b.neg) (a.units * b.units) (2 ^ 149)

/-- `fdiv` (R19): zero by zero and infinity by infinity are NaN, a number by zero is an infinity. -/
def fdiv (a b : F32) : F32 :=
  if a.isNaN || b.isNaN then nanResult .div a b
  else if a.isInf then (if b.isInf then nanResult .div a b else F32.inf (a.neg != b.neg))
  else if b.isInf then F32.signedZero (a.neg != b.neg)
  else if b.units = 0 then
    (if a.units = 0 then nanResult .div a b else F32.inf (a.neg != b.neg))
  else roundF32 (a.neg != b.neg) (a.units * 2 ^ 149) b.units

/-- `i2f`: an unsigned integer to binary32, with the same rounding (R19). -/
def i2f (n : Nat) : F32 := roundF32 false (n * 2 ^ 149) 1

/-- Position on the number line; the two zeros have the same one (R19: "`-0.0 == +0.0` is true"). -/
def F32.key (x : F32) : Int := if x.neg then -(x.mag : Int) else x.mag

/-- `a < b`: "any comparison with a NaN operand is false" (R19). -/
def flt (a b : F32) : Bool := !a.isNaN && !b.isNaN && decide (a.key < b.key)

/-- `a <= b` (R19). -/
def fle (a b : F32) : Bool := !a.isNaN && !b.isNaN && decide (a.key ≤ b.key)

/-- `a == b` (R19). -/
def feq (a b : F32) : Bool := !a.isNaN && !b.isNaN && decide (a.key = b.key)

/-- `clamp(x, lo, hi)` (R20). -/
def clamp (x lo hi : F32) : F32 := if flt x lo then lo else if flt hi x then hi else x

/-- 65535.0, `0x477FFF00`. -/
def F32.max16 : F32 := F32.ofBits 0x477FFF00

/-- 2.0, `0x40000000` (R23). -/
def F32.two : F32 := F32.ofBits 0x40000000

/-- `TWO_THIRDS`, `0x3F2AAAAB` (R23). -/
def F32.twoThirds : F32 := F32.ofBits 0x3F2AAAAB

/-- `trunc_u16`, "defined for `0.0 <= x <= 65535.0` (and for `-0.0`)": the fraction is discarded (R21).  Outside
"the function is not defined": a free value (log entry 8). -/
def truncU16 (x : F32) : U16 :=
  if fle F32.zero x && fle x F32.max16 then BitVec.ofNat 16 (x.units / 2 ^ 149) else Config.truncUndefined x

end Sys2Proof
end

