-- ==== Sys2Proof/Machine/Sampler.lean ====
section
/-! DEFINITION. The BEMF sampler (spec/41_sampler.md rules R140 to R149). -/

namespace Sys2Proof.Machine

/-- `decode_direction(kk)`: an invalid code performs `raise INVALID_DIRECTION` and gives `DEFAULT_DIRECTION` (R141). -/
def decodeDirection (kk : U8) (s : State) : Direction × State :=
  match directionOfCode kk with
  | some d => (d, s)
  | none => (s.params.defaultDirection, s.raise .invalidDirection)

/-- The sampler's contract `l + r < n` and `n <= MAX_SAMPLES`, over numbers that cannot wrap (R142, R22 (f)). -/
def samplerContract (n l r maxSamples : Nat) : Bool := l + r < n && n ≤ maxSamples

/-- `sorted[l .. n-r-1]` of the samples in ascending order (R148). -/
def keptSamples (samples : List Nat) (l r : Nat) : List Nat :=
  ((samples.insertionSort (· ≤ ·)).drop l).take (samples.length - l - r)

/-- `fdiv(i2f(sum), i2f(n - l - r))`, the sum exact (R149).  DESIGN CHOICE: that formula holds also for a sum of `2^24` or
more, where R151 (c), "all samples equal to `v`: result `i2f(v)` exactly", differs from it (log entry 23). -/
def trimmedMean (samples : List Nat) (l r : Nat) : F32 :=
  fdiv (i2f (keptSamples samples l r).sum) (i2f (samples.length - l - r))

/-- `measure(d)` (R140, R142 to R149): the mean, or none where the procedure returns `FAULT`, and the state after
it.  The drive enable is restored on every path (R146). -/
def measure (d : Direction) (s : State) : Option F32 × State :=
  let n := s.bemf.totalIterations.toNat
  let l := s.bemf.leftCutoff.toNat
  let r := s.bemf.rightCutoff.toNat
  if samplerContract n l r s.maxSamples then
    let (answers, s') := adcReads (s.params.sensePin d) n (s.disableDrive.emit (.waitUs s.bemf.delayUs))
    let restored := if s.driveEnabled then s'.enableDrive else s'
    if answers.any (·.fault) then (none, restored.raise .measurementFault)
    else (some (trimmedMean (answers.map (·.sample)) l r), restored)
  else (none, s.raise .configError)

/-- `MEASURE kk` on port C (R140). -/
def State.measureBody (kk : U8) (s : State) : State :=
  let (d, s') := decodeDirection kk s
  match measure d s' with
  | (some m, s'') => s''.respond .ok m.bits
  | (none, s'') => s''.respond .fault 0

/-- `MEASURE kk` (R140). -/
def execMeasure (kk : U8) (s : State) : Result := onPorts .onlyC s (State.measureBody kk)

end Sys2Proof.Machine
end

