-- ==== Sys2Proof/Machine/Startup.lean ====
section
/-! DEFINITION. The startup controller: learned levels, initial level, startup tick and handoff (spec/42_startup.md
rules R160 to R169). -/

namespace Sys2Proof.Machine

/-- The populated slots of the ring, `0 .. hist_count - 1` (R43, R161: "unpopulated slots are excluded"). -/
def StartupState.populated (u : StartupState) : List U16 := u.history.toList.take u.histCount.val

/-- `hist_avg()` (R162): `+0.0` for an empty history, else the exact sum over the count, one division. -/
def StartupState.average (u : StartupState) : F32 :=
  if u.histCount.val = 0 then F32.zero
  else fdiv (i2f (u.populated.map BitVec.toNat).sum) (i2f u.histCount.val)

/-- `get_initial_level()`: `fmul(TWO_THIRDS, hist_avg())` (R163). -/
def StartupState.initialLevel (u : StartupState) : F32 := fmul F32.twoThirds u.average

/-- `GET_INITIAL_LEVEL`: `return (OK, bits(get_initial_level()))` (R164). -/
def execGetInitialLevel (s : State) : Result :=
  onPorts .onlyC s fun s => s.respond .ok s.startup.initialLevel.bits

/-- `ceiling <- min(speed_table[setpoint], trunc_u16(max_output))` (R165). -/
def State.ceiling (s : State) : Nat := min s.speedTable[s.setpoint].toNat (truncU16 s.pid.maxOutput).toNat

/-- The level a startup tick applies: the seed cut to the ceiling (R166), or one ramp step more, cut to the
ceiling, over numbers that cannot wrap (R165). -/
def State.nextLevel (s : State) : Nat :=
  if s.startup.seeded then min (s.startup.level.toNat + s.startup.rampStep.toNat) s.ceiling
  else min (truncU16 s.startup.initialLevel).toNat s.ceiling

/-- Record a base level at the current ring index and advance index and count (R168). -/
def StartupState.push (u : StartupState) (level : U16) : StartupState :=
  { u with
    history := u.history.set u.histIdx.val level
    histIdx := u.histIdx + 1
    histCount := ⟨min (u.histCount.val + 1) 16, by omega⟩ }

/-- The handoff (R168): record the level, compute the feed-forward over the ring that includes it, zero the PID's
running terms, and go to `Pid`. -/
def State.handoff (s : State) : State :=
  let u := s.startup.push s.startup.level
  { s with
    startup := u
    feedForward := fmul u.kFf u.average
    pid := { s.pid with ePrev := F32.zero, iPrev := F32.zero, dPrev := F32.zero }
    mode := .pid }

/-- The data of a `CTRL_TICK` response: `[15:0]` `pwm_level`, `[16]` `mode` (R123, R124). -/
def State.tickData (s : State) : U32 := zext32 (s.mode.bit ++ s.pwmLevel)

/-- The startup tick up to its response (R165 to R169). -/
def State.startupBody (s : State) : State :=
  let level := BitVec.ofNat 16 s.nextLevel
  let s' := State.setPwm { s with startup := { s.startup with level, seeded := true } } level
  if s.ceiling ≤ s.nextLevel then s'.handoff else s'

/-- The startup tick (R169). -/
def State.startupTick (s : State) : State := s.startupBody.respond .ok s.startupBody.tickData

end Sys2Proof.Machine
end

