-- ==== Sys2Proof/Machine/Pid.lean ====
section
/-! DEFINITION. The gain-scheduled PID controller (spec/43_pid.md rules R180 to R195). -/

namespace Sys2Proof.Machine

/-- `get_kp(sp)` (R182, R183). -/
def PidState.getKp (p : PidState) (sp : Nat) : F32 :=
  let x := fsub (i2f sp) p.x1Shift
  if fle x F32.zero then p.y0
  else if flt x p.x1 then fadd p.y0 (fmul p.m1 x)
  else if flt x p.x2 then fadd p.y1 (fmul p.m2 (fsub x p.x1))
  else p.y2

/-- `GET_KP vv`: `return (OK, bits(get_kp(vv)))` (R185). -/
def execGetKp (vv : U8) (s : State) : Result :=
  onPorts .onlyC s fun s => s.respond .ok (s.pid.getKp vv.toNat).bits

/-- `i <- clamp(fadd(i_prev, fmul(ci_0, fadd(e, e_prev))), int_lim_min, int_lim_max)` (R190). -/
def PidState.integral (p : PidState) (e : F32) : F32 :=
  clamp (fadd p.iPrev (fmul p.ci0 (fadd e p.ePrev))) p.intLimMin p.intLimMax

/-- `d <- fadd(fmul(cd_0, fsub(e, e_prev)), fmul(cd_1, d_prev))` (R191). -/
def PidState.derivative (p : PidState) (e : F32) : F32 :=
  fadd (fmul p.cd0 (fsub e p.ePrev)) (fmul p.cd1 p.dPrev)

/-- `u <- fadd(fadd(fadd(fmul(kp, e), i), d), feed_forward)`, added left to right (R192). -/
def PidState.outputSum (p : PidState) (kp e feedForward : F32) : F32 :=
  fadd (fadd (fadd (fmul kp e) (p.integral e)) (p.derivative e)) feedForward

/-- `e <- fsub(mc, i2f(speed_table[setpoint]))` with `mc <- fsub(m, adc_offset)` (R187, R188). -/
def State.pidError (s : State) (m : F32) : F32 :=
  fsub (fsub m s.meas.adcOffset) (i2f s.speedTable[s.setpoint].toNat)

/-- The output sum of a tick that measured `m` (R192). -/
def State.pidSum (s : State) (m : F32) : F32 :=
  s.pid.outputSum (s.pid.getKp s.setpoint.val) (s.pidError m) s.feedForward

/-- The register writes of a PID tick that did not fault, with its `set_pwm`, the computed values given (R187 to
R189, R193, R194). -/
def State.pidWrite (s : State) (m corrected kp e i d : F32) (level : U16) : State :=
  State.setPwm
    { s with
      meas := { s.meas with rawPrev := s.meas.raw, raw := m, corrected := corrected }
      pid := { s.pid with e := e, kP := kp, ePrev := e, iPrev := i, dPrev := d } }
    level

/-- A PID tick that measured `m` and did not fault, up to its response (R187 to R194). -/
def State.pidCommit (s : State) (m : F32) : State :=
  s.pidWrite m (fsub m s.meas.adcOffset) (s.pid.getKp s.setpoint.val) (s.pidError m)
    (s.pid.integral (s.pidError m)) (s.pid.derivative (s.pidError m))
    (truncU16 (clamp (s.pidSum m) F32.zero s.pid.maxOutput))

/-- The PID tick (R195).  A faulted measurement and a NaN output sum hold: nothing is written but `error_state`,
with the drive restored, and no `set_pwm` is emitted (R186, R192). -/
def State.pidTick (s : State) : State :=
  match measure (directionOf s.target.r) s with
  | (none, s') => s'.respond .fault s'.tickData
  | (some m, s') =>
    if (s'.pidSum m).isNaN then (s'.raise .measurementFault).respond .fault s'.tickData
    else (s'.pidCommit m).respond .ok (s'.pidCommit m).tickData

end Sys2Proof.Machine
end

