-- ==== Sys2Proof/Machine/Control.lean ====
section
/-! DEFINITION. `INIT`, `CTRL_TICK` with its dispatch and stop action, and `RAMP_TICK` (spec/44_state_machine.md
rules R200 to R223). -/

namespace Sys2Proof

/-- `m1 <- fdiv(fsub(y1, y0), x1)` (R203). -/
def CvConfig.m1 (c : CvConfig) : F32 := fdiv (fsub c.y1 c.y0) c.x1

/-- `m2 <- fdiv(fsub(y2, y1), fsub(x2, x1))` (R203). -/
def CvConfig.m2 (c : CvConfig) : F32 := fdiv (fsub c.y2 c.y1) (fsub c.x2 c.x1)

/-- `ci_0 <- fdiv(fmul(k_i, t), 2.0)` (R204). -/
def CvConfig.ci0 (c : CvConfig) : F32 := fdiv (fmul c.kI c.t) F32.two

/-- `den <- fadd(fmul(2.0, tau), t)` (R204). -/
def CvConfig.den (c : CvConfig) : F32 := fadd (fmul F32.two c.tau) c.t

/-- `cd_0 <- fdiv(fmul(2.0, k_d), den)` (R204). -/
def CvConfig.cd0 (c : CvConfig) : F32 := fdiv (fmul F32.two c.kD) c.den

/-- `cd_1 <- fdiv(fsub(fmul(2.0, tau), t), den)` (R204). -/
def CvConfig.cd1 (c : CvConfig) : F32 := fdiv (fsub (fmul F32.two c.tau) c.t) c.den

/-- The fifteen `f32` fields of the record (R201, R202 (a)). -/
def CvConfig.floats (c : CvConfig) : List F32 :=
  [c.kI, c.kD, c.t, c.tau, c.intLimMin, c.intLimMax, c.maxOutput, c.x1Shift, c.x1, c.x2, c.y0, c.y1, c.y2, c.kFf,
    c.adcOffset]

/-- The five derived values (R202 (g)). -/
def CvConfig.derived (c : CvConfig) : List F32 := [c.m1, c.m2, c.ci0, c.cd0, c.cd1]

/-- `valid(c, derived)`, the conjunction (a) to (g) of R202. -/
def CvConfig.valid (c : CvConfig) (maxSamples : Nat) : Bool :=
  c.floats.all F32.isFinite
    && (flt F32.zero c.x1 && flt c.x1 c.x2)
    && fle c.intLimMin c.intLimMax
    && (fle F32.zero c.maxOutput && fle c.maxOutput F32.max16)
    && (flt F32.zero c.t && fle F32.zero c.tau)
    && Machine.samplerContract c.totalIterations.toNat c.leftCutoff.toNat c.rightCutoff.toNat maxSamples
    && c.derived.all F32.isFinite

end Sys2Proof

namespace Sys2Proof.Machine

/-- The register load of a valid record (R205): each field copied to the register of R201's table, then the five
derived registers; nothing else. -/
def State.loadConfig (s : State) (c : CvConfig) : State :=
  { s with
    speedTable := c.speedTable
    startup := { s.startup with kFf := c.kFf, rampStep := c.rampStep }
    pid :=
      { s.pid with
        kI := c.kI, kD := c.kD, t := c.t, tau := c.tau
        intLimMin := c.intLimMin, intLimMax := c.intLimMax, maxOutput := c.maxOutput
        x1Shift := c.x1Shift, x1 := c.x1, x2 := c.x2, y0 := c.y0, y1 := c.y1, y2 := c.y2
        m1 := c.m1, m2 := c.m2, ci0 := c.ci0, cd0 := c.cd0, cd1 := c.cd1 }
    meas := { s.meas with adcOffset := c.adcOffset }
    bemf :=
      { delayUs := c.delayUs, totalIterations := c.totalIterations, leftCutoff := c.leftCutoff,
        rightCutoff := c.rightCutoff }
    rampDelay := c.rampDelay }

/-- A successful `INIT` up to its response: the load, then `pwm_level <- 0`, `set_pwm(0)`, `enable_drive`,
`initialised <- 1` (R200, R205). -/
def State.initialise (s : State) (c : CvConfig) : State :=
  { ((s.loadConfig c).setPwm 0).enableDrive with initialised := true }

/-- `INIT` on port C (R200). -/
def State.initBody (s : State) : State :=
  if s.initialised then s.respond .denied 0
  else if !s.setup.r then s.respond .notReady 0
  else if !s.cv.valid s.maxSamples then (s.raise .configError).respond .fault 0
  else (s.initialise s.cv).respond .ok 0

/-- `INIT` (R200). -/
def execInit (s : State) : Result := onPorts .onlyC s State.initBody

/-- The stop action up to its response (R211). -/
def State.stopBody (s : State) : State :=
  State.setPwm { s with mode := .startup, startup := { s.startup with level := 0, seeded := false } } 0

/-- `CTRL_TICK` on port C: refused before `INIT`, else exactly one of the stop action, the startup tick and the PID
tick (R210, R212). -/
def State.ctrlTickBody (s : State) : State :=
  if !s.initialised then s.respond .notReady 0
  else if s.setpoint = 0 then s.stopBody.respond .ok 0
  else
    match s.mode with
    | .startup => s.startupTick
    | .pid => s.pidTick

/-- `CTRL_TICK` (R210). -/
def execCtrlTick (s : State) : Result := onPorts .onlyC s State.ctrlTickBody

/-- One table step of `setpoint` toward `tgt`, or none at it (R220, R221). -/
def stepToward (setpoint tgt : Fin 127) : Fin 127 :=
  if h : setpoint < tgt then ⟨setpoint.val + 1, by omega⟩
  else if tgt < setpoint then ⟨setpoint.val - 1, by omega⟩
  else setpoint

/-- `RAMP_TICK` on port C (R220). -/
def State.rampTickBody (s : State) : State :=
  if !s.initialised then s.respond .notReady 0
  else
    let setpoint := stepToward s.setpoint (tableIndexOf s.target.r)
    State.respond { s with setpoint } .ok (BitVec.ofNat 32 setpoint.val)

/-- `RAMP_TICK` (R220). -/
def execRampTick (s : State) : Result := onPorts .onlyC s State.rampTickBody

end Sys2Proof.Machine
end

