-- ==== Sys2Proof/Machine/Errors.lean ====
section
/-! DEFINITION. The error-bitmask commands (spec/45_shared_and_error_ops.md rules R240 to R243). -/

namespace Sys2Proof.Machine

/-- `SET_ERROR b`: `error_state <- error_state | (1 << b); return (OK, error_state)` (R240). -/
def execSetError (b : BitVec 5) (s : State) : Result :=
  onPorts .both s fun s =>
    State.respond { s with errorState := setErrorBit s.errorState b } .ok (setErrorBit s.errorState b)

/-- `CLEAR_ERROR b`: `error_state <- error_state & ~(1 << b); return (OK, error_state)` (R241). -/
def execClearError (b : BitVec 5) (s : State) : Result :=
  onPorts .both s fun s => (s.acknowledge b).respond .ok (clearErrorBit s.errorState b)

/-- `CLEAR_ALL_ERRORS`: `error_state <- 0; return (OK, 0)` (R242). -/
def execClearAllErrors (s : State) : Result :=
  onPorts .both s fun s => State.respond { s with errorState := 0 } .ok 0

/-- `GET_ERROR_STATE`: `return (OK, error_state)` (R243). -/
def execGetErrorState (s : State) : Result :=
  onPorts .both s fun s => s.respond .ok s.errorState

end Sys2Proof.Machine
end

