-- ==== Sys2Proof/Machine/Shared.lean ====
section
/-! DEFINITION. The commands over the shared fields (spec/45_shared_and_error_ops.md rules R230 to R236; the two
copies are spec/20_memory.md rule R76). -/

namespace Sys2Proof.Machine

/-- The copy of a field that the decode core writes: its own `F.w` on port D, the reader's `F.r` on port C (R76). -/
def Synced.decodeWritten {α : Type} (f : Synced α) : Port → α
  | .c => f.r
  | .d => f.w

/-- The copy of a field that the control core writes: its own `F.w` on port C, the reader's `F.r` on port D (R76). -/
def Synced.controlWritten {α : Type} (f : Synced α) : Port → α
  | .c => f.w
  | .d => f.r

/-- `WR_TARGET ss`: the old target moves to `speed_step_target_prev.w`, then `ss` becomes the target (R230). -/
def execWrTarget (ss : U8) (s : State) : Result :=
  onPorts .onlyD s fun s =>
    State.respond { s with prev := { s.prev with w := s.target.w }, target := { s.target with w := ss } } .ok 0

/-- `WR_SETUP_DONE v`: `cv_setup_check_done.w <- v` (R231). -/
def execWrSetupDone (v : Bool) (s : State) : Result :=
  onPorts .onlyD s fun s => State.respond { s with setup := { s.setup with w := v } } .ok 0

/-- `WR_FSE_DONE v`: `flash_safe_execute_core_init_done.w <- v` (R232). -/
def execWrFseDone (v : Bool) (s : State) : Result :=
  onPorts .onlyC s fun s => State.respond { s with fse := { s.fse with w := v } } .ok 0

/-- `RD_TARGET`: port D reads `.w`, port C reads `.r` (R233). -/
def execRdTarget (s : State) : Result :=
  onPorts .both s fun s => s.respond .ok (zext32 (s.target.decodeWritten s.port))

/-- `RD_TARGET_PREV`: port D reads `.w`, port C reads `.r` (R234). -/
def execRdTargetPrev (s : State) : Result :=
  onPorts .both s fun s => s.respond .ok (zext32 (s.prev.decodeWritten s.port))

/-- `RD_SETUP_DONE`: port D reads `.w`, port C reads `.r` (R235). -/
def execRdSetupDone (s : State) : Result :=
  onPorts .both s fun s => s.respond .ok (zext32 (BitVec.ofBool (s.setup.decodeWritten s.port)))

/-- `RD_FSE_DONE`: port C reads `.w`, port D reads `.r` (R236). -/
def execRdFseDone (s : State) : Result :=
  onPorts .both s fun s => s.respond .ok (zext32 (BitVec.ofBool (s.fse.controlWritten s.port)))

end Sys2Proof.Machine
end

