-- ==== Sys2Proof/Machine/StateRead.lean ====
section
/-! DEFINITION. The state register space and its read command (spec/10_state.md rules R30, R31;
spec/45_shared_and_error_ops.md rule R250). -/

namespace Sys2Proof.Machine

/-- The scalar registers of R30, from index 0x90 on. -/
def scalarRegister (s : State) : Nat → Option U32
  | 0x90 => some (zext32 s.mode.bit)
  | 0x91 => some s.feedForward.bits
  | 0x92 => some (BitVec.ofNat 32 s.setpoint.val)
  | 0x93 => some (zext32 s.startup.level)
  | 0x94 => some (BitVec.ofNat 32 s.startup.histIdx.val)
  | 0x95 => some (BitVec.ofNat 32 s.startup.histCount.val)
  | 0x96 => some s.startup.kFf.bits
  | 0x97 => some (zext32 s.startup.rampStep)
  | 0x98 => some (zext32 (BitVec.ofBool s.startup.seeded))
  | 0x99 => some (zext32 s.pwmLevel)
  | 0x9A => some (zext32 (BitVec.ofBool s.driveEnabled))
  | 0x9B => some (zext32 (BitVec.ofBool s.initialised))
  | 0xA0 => some s.pid.kP.bits
  | 0xA1 => some s.pid.kI.bits
  | 0xA2 => some s.pid.kD.bits
  | 0xA3 => some s.pid.t.bits
  | 0xA4 => some s.pid.tau.bits
  | 0xA5 => some s.pid.ci0.bits
  | 0xA6 => some s.pid.cd0.bits
  | 0xA7 => some s.pid.cd1.bits
  | 0xA8 => some s.pid.intLimMin.bits
  | 0xA9 => some s.pid.intLimMax.bits
  | 0xAA => some s.pid.maxOutput.bits
  | 0xAB => some s.pid.e.bits
  | 0xAC => some s.pid.ePrev.bits
  | 0xAD => some s.pid.iPrev.bits
  | 0xAE => some s.pid.dPrev.bits
  | 0xB0 => some s.pid.x1Shift.bits
  | 0xB1 => some s.pid.x1.bits
  | 0xB2 => some s.pid.x2.bits
  | 0xB3 => some s.pid.y0.bits
  | 0xB4 => some s.pid.y1.bits
  | 0xB5 => some s.pid.y2.bits
  | 0xB6 => some s.pid.m1.bits
  | 0xB7 => some s.pid.m2.bits
  | 0xC0 => some s.meas.raw.bits
  | 0xC1 => some s.meas.rawPrev.bits
  | 0xC2 => some s.meas.corrected.bits
  | 0xC3 => some s.meas.adcOffset.bits
  | 0xC4 => some s.bemf.delayUs
  | 0xC5 => some (zext32 s.bemf.totalIterations)
  | 0xC6 => some (zext32 s.bemf.leftCutoff)
  | 0xC7 => some (zext32 s.bemf.rightCutoff)
  | 0xC8 => some (zext32 s.rampDelay)
  | 0xD0 => some (zext32 s.target.r)
  | 0xD1 => some (zext32 s.prev.r)
  | 0xD2 => some (zext32 (BitVec.ofBool s.setup.r))
  | 0xD3 => some (zext32 (BitVec.ofBool s.fse.w))
  | 0xD4 => some s.errorState
  | _ => none

/-- `RegRead(idx)`: the register of R30 zero-extended to 32 bits, an `f32` register as its bit pattern (R31);
none where the index is reserved. -/
def regRead (s : State) (xx : U8) : Option U32 :=
  if h : xx.toNat < 127 then some (zext32 s.speedTable[xx.toNat])
  else if h : 0x80 ≤ xx.toNat ∧ xx.toNat < 0x90 then some (zext32 s.startup.history[xx.toNat - 0x80])
  else scalarRegister s xx.toNat

/-- `RD_STATE xx`: `if xx is reserved: return (ILLEGAL, 0); return (OK, zext_32(RegRead(xx)))` (R250).  The operand
check comes before the port check (R105). -/
def execRdState (xx : U8) (s : State) : Result :=
  match regRead s xx with
  | none => .next (s.respond .illegal 0)
  | some v => onPorts .onlyC s fun s => s.respond .ok v

end Sys2Proof.Machine
end

