-- ==== Sys2Proof/Machine/Dispatch.lean ====
section
/-! DEFINITION. One arm per command of PDC-1 (spec/30_encoding.md rule R114). -/

namespace Sys2Proof.Machine

def exec (i : Instr) (s : State) : Host.Outcome State Fault Refusal :=
  match i with
  | .directionOf ss => Sys2Proof.Machine.execDirectionOf ss s
  | .tableIndexOf ss => Sys2Proof.Machine.execTableIndexOf ss s
  | .decodeStep ss => Sys2Proof.Machine.execDecodeStep ss s
  | .init => Sys2Proof.Machine.execInit s
  | .ctrlTick => Sys2Proof.Machine.execCtrlTick s
  | .rampTick => Sys2Proof.Machine.execRampTick s
  | .measure kk => Sys2Proof.Machine.execMeasure kk s
  | .getKp vv => Sys2Proof.Machine.execGetKp vv s
  | .getInitialLevel => Sys2Proof.Machine.execGetInitialLevel s
  | .setError b => Sys2Proof.Machine.execSetError b s
  | .clearError b => Sys2Proof.Machine.execClearError b s
  | .clearAllErrors => Sys2Proof.Machine.execClearAllErrors s
  | .getErrorState => Sys2Proof.Machine.execGetErrorState s
  | .wrTarget ss => Sys2Proof.Machine.execWrTarget ss s
  | .wrSetupDone v => Sys2Proof.Machine.execWrSetupDone v s
  | .wrFseDone v => Sys2Proof.Machine.execWrFseDone v s
  | .rdTarget => Sys2Proof.Machine.execRdTarget s
  | .rdTargetPrev => Sys2Proof.Machine.execRdTargetPrev s
  | .rdSetupDone => Sys2Proof.Machine.execRdSetupDone s
  | .rdFseDone => Sys2Proof.Machine.execRdFseDone s
  | .rdState xx => Sys2Proof.Machine.execRdState xx s

end Sys2Proof.Machine
end

