-- ==== Sys2Proof/Machine/Sequencer.lean ====
section
/-! DEFINITION. What each input of the outside world does to the CORE (spec/00_scope.md rules R10, R12;
spec/30_encoding.md rule R113). -/

namespace Sys2Proof.Machine

/-- A word accepted at the current port: decoded and executed, or answered `ILLEGAL` with data 0 and no other
change (R113, R118). -/
def acceptWord (w : U16) (s : State) : Result :=
  match decode w with
  | .ok i => exec i s
  | .error _ => .next (s.respond .illegal 0)

/-- The step of one input (R10, R12, R77, R300, R72, R121). -/
def takeInput (x : Input) (s : State) : Result :=
  match x with
  | .command p w => acceptWord w { s with port := p }
  | .sync f => .next (s.sync f)
  | .reset => .next s.applyReset
  | .cvStore c => .next { s with cv := c }
  | .adc answers => .next { s with adcAnswers := answers }

/-- The port at which `State.withFetchWord` presents a word: port D for the commands only port D may use, port C for
every other word (R103). -/
def portFor (w : U16) : Port :=
  match decode w with
  | .ok i => if i.ports.allows .c then .c else .d
  | .error _ => .c

end Sys2Proof.Machine
end

