-- ==== Sys2Proof/Machine/Step.lean ====
section
/-! DEFINITION. One step: the next input of the outside world is taken (spec/00_scope.md rules R10, R12). -/

namespace Sys2Proof.Machine

/-- One step.  With no input the CORE waits (R303: "after `RESET` it waits for commands"). -/
def step (s : State) : Host.Outcome State Fault Refusal :=
  match s.inputs with
  | [] => .next s
  | x :: rest => takeInput x { s with inputs := rest }

/-- `s` with the word `w` (numbered as the opcode table numbers it) as the next word presented, at a port that may
use it; the CORE fetches nothing by itself (R40). -/
def State.withFetchWord (s : State) (nbits w : Nat) : State :=
  { s with
    inputs := .command (portFor (BitVec.ofNat 16 (w % 2 ^ nbits))) (BitVec.ofNat 16 (w % 2 ^ nbits)) :: s.inputs }

end Sys2Proof.Machine
end

