-- ==== Sys2Proof/Machine/Listing.lean ====
section
/-! DEFINITION. The listing syntax and the pseudo-commands (spec/30_encoding.md rules R121, R122): what a line of a
listing presents to the CORE. -/

namespace Sys2Proof.Machine

/-- A line of a listing (R121). -/
inductive Line where
  | command (p : Port) (i : Instr)
  | word (p : Port) (w : U16)
  | sync (f : Option SharedField)
  | adc (answers : List AdcAnswer)
  deriving DecidableEq, Repr

/-- The inputs a line stands for: a command's word at its port, a raw word "whether or not it spells a command", a
synchroniser step "for all four fields or the one named", the ADC answers (R121). -/
def Line.inputs : Line → List Input
  | .command p i => [.command p (encode i)]
  | .word p w => [.command p w]
  | .sync none => [.sync .target, .sync .prev, .sync .setup, .sync .fse]
  | .sync (some f) => [.sync f]
  | .adc answers => [.adc answers]

/-- `SET_ERROR_MASK m`: "expands to `SET_ERROR b` for every set bit `b` of `m` in ascending order" (R122). -/
def setErrorMask (m : U32) : List Instr :=
  ((List.range 32).filter fun b => m.getLsbD b).map fun b => .setError (BitVec.ofNat 5 b)

/-- `WR_TARGET_DS d, s`: "expands to `WR_TARGET (d << 7) | s`" (R122). -/
def wrTargetDs (d : Direction) (s : BitVec 7) : Instr := .wrTarget (d.code ++ s)

/-- How a mnemonic takes its operand: as a byte (formats S, K, V, X), a bit index (E), a boolean (B), or not at all
(N) (R106 to R112). -/
inductive OperandUse where
  | byte (f : U8 → Instr)
  | bit (f : BitVec 5 → Instr)
  | flag (f : Bool → Instr)
  | plain (i : Instr)

/-- The mnemonics of R114. -/
def mnemonics : List (String × OperandUse) :=
  [("DIRECTION_OF", .byte .directionOf), ("TABLE_INDEX_OF", .byte .tableIndexOf), ("DECODE_STEP", .byte .decodeStep),
    ("INIT", .plain .init), ("CTRL_TICK", .plain .ctrlTick), ("RAMP_TICK", .plain .rampTick),
    ("MEASURE", .byte .measure), ("GET_KP", .byte .getKp), ("GET_INITIAL_LEVEL", .plain .getInitialLevel),
    ("SET_ERROR", .bit .setError), ("CLEAR_ERROR", .bit .clearError), ("CLEAR_ALL_ERRORS", .plain .clearAllErrors),
    ("GET_ERROR_STATE", .plain .getErrorState), ("WR_TARGET", .byte .wrTarget),
    ("WR_SETUP_DONE", .flag .wrSetupDone), ("WR_FSE_DONE", .flag .wrFseDone), ("RD_TARGET", .plain .rdTarget),
    ("RD_TARGET_PREV", .plain .rdTargetPrev), ("RD_SETUP_DONE", .plain .rdSetupDone),
    ("RD_FSE_DONE", .plain .rdFseDone), ("RD_STATE", .byte .rdState)]

/-- The names of the error bits (R260). -/
def errorNames : List (String × ErrorBit) :=
  [("PWM_INIT_FAILURE", .pwmInitFailure), ("ADC_INIT_FAILURE", .adcInitFailure), ("STORAGE_FAILURE", .storageFailure),
    ("INVALID_DIRECTION", .invalidDirection), ("WATCHDOG_REBOOT", .watchdogReboot), ("CONFIG_ERROR", .configError),
    ("MEASUREMENT_FAULT", .measurementFault)]

/-- The entry of a table of names. -/
def lookupName {α : Type} (table : List (String × α)) (name : List Char) : Option α :=
  (table.find? fun row => row.1.toList == name).map Prod.snd

/-- The value of a digit in a base, decimal or hexadecimal. -/
def digitValue (base : Nat) (c : Char) : Option Nat :=
  let n := c.toNat
  let v := if 48 ≤ n ∧ n ≤ 57 then n - 48 else if 65 ≤ n ∧ n ≤ 70 then n - 55 else if 97 ≤ n ∧ n ≤ 102 then n - 87 else 16
  if v < base then some v else none

/-- The digits of a number, most significant first. -/
def digitsValue (base : Nat) : Nat → List Char → Option Nat
  | acc, [] => some acc
  | acc, c :: cs =>
    match digitValue base c with
    | some v => digitsValue base (acc * base + v) cs
    | none => none

/-- "an unsigned number in decimal or `0x` hexadecimal" (R121). -/
def numberOf : List Char → Option Nat
  | [] => none
  | '0' :: 'x' :: c :: cs => digitsValue 16 0 (c :: cs)
  | cs => digitsValue 10 0 cs

/-- An `ADC` value, "a value followed by `!` is returned with the fault bit 1" (R121). -/
def adcAnswerOf (cs : List Char) : Option AdcAnswer :=
  if cs.getLast? = some '!' then (numberOf cs.dropLast).map fun v => { sample := v, fault := true }
  else (numberOf cs).map fun v => { sample := v, fault := false }

/-- The words of a line, separated by blanks and commas; "text after `;` is a comment" (R121). -/
def lineWords (cs : List Char) : List (List Char) :=
  let (word, words) := (cs.takeWhile (· != ';')).foldr
    (fun c (word, words) =>
      if c == ' ' || c == '\t' || c == ',' then (([] : List Char), if word.isEmpty then words else word :: words)
      else (c :: word, words))
    ([], [])
  if word.isEmpty then words else word :: words

/-- The command of a mnemonic with its operand, if it has one: a number, or for format E also a bit's name (R121). -/
def commandOf (use : OperandUse) (operand : Option (List Char)) : Option Instr :=
  match use, operand with
  | .plain i, none => some i
  | .byte f, some cs => (numberOf cs).bind fun v => if v < 256 then some (f (BitVec.ofNat 8 v)) else none
  | .flag f, some cs => (numberOf cs).bind fun v => if v < 2 then some (f (v == 1)) else none
  | .bit f, some cs =>
    match lookupName errorNames cs with
    | some b => some (f b.index)
    | none => (numberOf cs).bind fun v => if v < 32 then some (f (BitVec.ofNat 5 v)) else none
  | .plain _, some _ | .byte _, none | .flag _, none | .bit _, none => none

/-- The port of a line (R121). -/
def portOf (cs : List Char) : Option Port :=
  if cs == "C:".toList then some .c else if cs == "D:".toList then some .d else none

/-- The shared field of a `SYNC` line (R121). -/
def fieldOf (cs : List Char) : Option SharedField :=
  lookupName [("target", .target), ("prev", .prev), ("setup", .setup), ("fse", .fse)] cs

/-- What follows the port: a raw word, a pseudo-command, or a command (R121, R122). -/
def commandLines (p : Port) (name : List Char) (operands : List (List Char)) : Option (List Line) :=
  match operands with
  | [] => ((lookupName mnemonics name).bind fun use => commandOf use none).map fun i => [.command p i]
  | [a] =>
    if name == ".word".toList then
      (numberOf a).bind fun v => if v < 2 ^ 16 then some [.word p (BitVec.ofNat 16 v)] else none
    else if name == "SET_ERROR_MASK".toList then
      (numberOf a).bind fun v =>
        if v < 2 ^ 32 then some ((setErrorMask (BitVec.ofNat 32 v)).map (Line.command p)) else none
    else ((lookupName mnemonics name).bind fun use => commandOf use (some a)).map fun i => [.command p i]
  | [a, b] =>
    if name == "WR_TARGET_DS".toList then
      match numberOf a, numberOf b with
      | some d, some v =>
        if d < 2 ∧ v < 128 then
          some [.command p (wrTargetDs (if d = 1 then .forward else .reverse) (BitVec.ofNat 7 v))]
        else none
      | some _, none | none, _ => none
    else none
  | _ :: _ :: _ :: _ => none

/-- The lines one text line of a listing stands for; a blank line stands for none (R121, R122). -/
def parseLine (cs : List Char) : Option (List Line) :=
  match lineWords cs with
  | [] => some []
  | head :: rest =>
    if head == "SYNC".toList then
      match rest with
      | [] => some [.sync none]
      | [f] => (fieldOf f).map fun f => [.sync (some f)]
      | _ :: _ :: _ => none
    else if head == "ADC".toList then (rest.mapM adcAnswerOf).map fun as => [.adc as]
    else
      match portOf head, rest with
      | some p, name :: operands => commandLines p name operands
      | some _, [] | none, _ => none

/-- The inputs of a whole listing, or none where a line is not of the syntax (R121). -/
def assemble (lines : List String) : Option (List Input) :=
  (lines.mapM fun l => parseLine l.toList).map fun ls => (ls.flatten.map Line.inputs).flatten

end Sys2Proof.Machine
end

