-- ==== Sys2Proof/Safety.lean ====
section
/-! DEFINITION. What a safe run means, in the terms statements use: refusals (spec/00_scope.md rule R13), the shadow
registers read off the event history (R281, R282), the configuration invariants (R60, R202), the invariant every
step keeps, and the duties the spec lays on schedules and hosts (R78, R262). -/

namespace Sys2Proof.Machine

/-- "`ILLEGAL`, `DENIED` and `NOT_READY` are refusals (state unchanged …)" (R13). -/
def Status.isRefusal : Status → Bool
  | .illegal | .denied | .notReady => true
  | .ok | .fault => false

/-- The other port. -/
def otherPort : Port → Port
  | .c => .d
  | .d => .c

/-- The command executed in `s` returned `r` on the port it arrived on, and nothing on the other port (R101, R104). -/
def State.Returns (s t : State) (r : Response) : Prop :=
  t.response s.port = some r ∧ t.response (otherPort s.port) = s.response (otherPort s.port)

/-- The command executed in `s` returned `r` and changed no state. -/
def State.OnlyAnswers (s t : State) (r : Response) : Prop :=
  s.Returns t r ∧ { t with respC := s.respC, respD := s.respD } = s

/-- The level of the last `set_pwm` event, 0 if there is none (R281). -/
def lastPwm (events : List PeriphEvent) : U16 :=
  events.foldl (fun acc e => match e with
    | .setPwm level => level
    | .disableDrive | .enableDrive | .waitUs _ | .readAdc _ => acc) 0

/-- The drive after the last `disable_drive` or `enable_drive` event, off if there is none (R282). -/
def lastDrive (events : List PeriphEvent) : Bool :=
  events.foldl (fun acc e => match e with
    | .disableDrive => false
    | .enableDrive => true
    | .setPwm _ | .waitUs _ | .readAdc _ => acc) false

/-- The `f32` configuration registers (R60, R201). -/
def State.configFloats (s : State) : List F32 :=
  [s.pid.kI, s.pid.kD, s.pid.t, s.pid.tau, s.pid.intLimMin, s.pid.intLimMax, s.pid.maxOutput, s.pid.x1Shift, s.pid.x1,
    s.pid.x2, s.pid.y0, s.pid.y1, s.pid.y2, s.startup.kFf, s.meas.adcOffset]

/-- The configuration registers hold what `INIT`'s checks establish (R60, R202), and the derived registers what `INIT`
computed from them (R203, R204: "never recomputed per-tick"). -/
structure State.Configured (s : State) : Prop where
  finite : ∀ x ∈ s.configFloats, x.isFinite = true
  breakpoints : flt F32.zero s.pid.x1 = true ∧ flt s.pid.x1 s.pid.x2 = true
  limits : fle s.pid.intLimMin s.pid.intLimMax = true
  period : flt F32.zero s.pid.t = true ∧ fle F32.zero s.pid.tau = true
  contract : s.bemf.leftCutoff.toNat + s.bemf.rightCutoff.toNat < s.bemf.totalIterations.toNat ∧
    s.bemf.totalIterations.toNat ≤ s.maxSamples
  slopes : s.pid.m1 = fdiv (fsub s.pid.y1 s.pid.y0) s.pid.x1 ∧
    s.pid.m2 = fdiv (fsub s.pid.y2 s.pid.y1) (fsub s.pid.x2 s.pid.x1)
  coefficients : s.pid.ci0 = fdiv (fmul s.pid.kI s.pid.t) F32.two ∧
    s.pid.cd0 = fdiv (fmul F32.two s.pid.kD) (fadd (fmul F32.two s.pid.tau) s.pid.t) ∧
    s.pid.cd1 = fdiv (fsub (fmul F32.two s.pid.tau) s.pid.t) (fadd (fmul F32.two s.pid.tau) s.pid.t)

/-- What holds as long as no `INIT` has succeeded: the output is zero, the drive was never touched, the sampler's
counts still break its contract, and nothing was emitted (R37, R303). -/
structure State.Unconfigured (s : State) : Prop where
  stopped : s.setpoint = 0 ∧ s.mode = .startup ∧ s.pwmLevel = 0 ∧ s.driveEnabled = false
  silent : s.events = []
  noSamples : s.bemf.totalIterations = 0
  noIntegral : s.pid.iPrev = F32.zero

/-- The `f32` registers that a PID tick writes (R181). -/
def State.pidWritten (s : State) : List F32 :=
  [s.meas.raw, s.meas.rawPrev, s.meas.corrected, s.pid.e, s.pid.kP, s.pid.ePrev, s.pid.iPrev, s.pid.dPrev]

/-- The invariant of the CORE (R43, R44, R48, R60, R281, R282, and "must not update history with poisoned values",
R186, R192). -/
structure State.Inv (s : State) : Prop where
  /-- `pwm_level` is the level of the last `set_pwm` event (R44, R281). -/
  shadowPwm : s.pwmLevel = lastPwm s.events
  /-- `drive_enabled` is the state after the last drive event (R44, R282). -/
  shadowDrive : s.driveEnabled = lastDrive s.events
  /-- "`hist_idx == hist_count mod 16` while `hist_count < 16`" (R43). -/
  ring : s.startup.histCount.val < 16 → s.startup.histIdx.val = s.startup.histCount.val
  /-- "`mode == Pid` implies `hist_count >= 1`" (R60). -/
  learned : s.mode = .pid → 1 ≤ s.startup.histCount.val
  /-- "`0.0 <= max_output <= 65535.0`" and "`pwm_level <= trunc_u16(max_output)`" (R60). -/
  output : fle F32.zero s.pid.maxOutput = true ∧ fle s.pid.maxOutput F32.max16 = true ∧
    s.pwmLevel.toNat ≤ (truncU16 s.pid.maxOutput).toNat
  /-- "`int_lim_min <= i_prev <= int_lim_max`" where "`int_lim_min <= 0.0 <= int_lim_max`" (R48). -/
  integral : fle s.pid.intLimMin F32.zero = true → fle F32.zero s.pid.intLimMax = true →
    fle s.pid.intLimMin s.pid.iPrev = true ∧ fle s.pid.iPrev s.pid.intLimMax = true
  /-- No poisoned value is stored in a register that a PID tick writes (R186, R192). -/
  unpoisoned : ∀ x ∈ s.pidWritten, x.isNaN = false
  /-- Once `INIT` has succeeded, the configuration is as it checked and computed it (R60). -/
  configured : s.initialised = true → s.Configured
  /-- Until `INIT` has succeeded, the CORE is silent (R303). -/
  unconfigured : s.initialised = false → s.Unconfigured

/-- The bounded staleness of R78 (a) as a property of a schedule: "for each field `F` whose reader is the control
core …, between any two consecutive `CTRL_TICK` commands at least one `SYNC(F)` step occurs".  `fresh` says that
`SYNC(F)` has occurred since the last `CTRL_TICK` (or that there was none). -/
def freshBetweenTicks (f : SharedField) : Bool → List Input → Bool
  | _, [] => true
  | fresh, .command .c w :: rest =>
    if decode w = .ok .ctrlTick then fresh && freshBetweenTicks f false rest else freshBetweenTicks f fresh rest
  | fresh, .sync g :: rest => freshBetweenTicks f (fresh || f == g) rest
  | fresh, .command .d _ :: rest => freshBetweenTicks f fresh rest
  | fresh, .reset :: rest => freshBetweenTicks f fresh rest
  | fresh, .cvStore _ :: rest => freshBetweenTicks f fresh rest
  | fresh, .adc _ :: rest => freshBetweenTicks f fresh rest

/-- A schedule that meets R78 (a) for the three fields the control core reads. -/
def stalenessBounded (inputs : List Input) : Bool :=
  freshBetweenTicks .target true inputs && freshBetweenTicks .prev true inputs && freshBetweenTicks .setup true inputs

/-- An unending schedule: the `k`-th input that the outside world presents (R10, R12). -/
abbrev Schedule := Nat → Input

/-- The first `n` inputs of a schedule. -/
def Schedule.firstInputs (x : Schedule) (n : Nat) : List Input := (List.range n).map x

/-- `r` is the run of a schedule: the state before each input and, by one step that takes it, the state after. -/
def Schedule.IsRun (x : Schedule) (r : Nat → State) : Prop :=
  ∀ n, step { r n with inputs := [x n] } = .next (r (n + 1))

/-- The input is the owning port's write of `flash_safe_execute_core_init_done` (R232). -/
def Input.writesFse : Input → Bool
  | .command .c w => decode w = .ok (.wrFseDone false) ∨ decode w = .ok (.wrFseDone true)
  | .command .d _ | .sync _ | .reset | .cvStore _ | .adc _ => false

/-- The weak fairness of R78 (b): "`SYNC(fse)` occurs eventually after every write". -/
def Schedule.fseFair (x : Schedule) : Prop :=
  ∀ n, (x n).writesFse = true → ∃ m, n < m ∧ x m = .sync .fse

/-- The assumptions on schedules that R78 makes: (a) for its first inputs, however many, and (b). -/
structure Schedule.Fair (x : Schedule) : Prop where
  staleness : ∀ n, stalenessBounded (x.firstInputs n) = true
  eventualFse : x.fseFair

/-- The owning sides that R262 fixes: "bits 3, 5, 6 are set by the control side …; bits 2, 4 by the decode core and its
supervisor shell".  For bits 0 and 1 it is "whichever core initialises the PWM and ADC drivers". -/
def ErrorBit.owner : ErrorBit → Option Port
  | .invalidDirection | .configError | .measurementFault => some .c
  | .storageFailure | .watchdogReboot => some .d
  | .pwmInitFailure | .adcInitFailure => none

/-- An assignment of one owning side to every bit ("per-bit single-writer") that agrees with the sides R262 fixes. -/
def ownerMap (owner : BitVec 5 → Port) : Bool :=
  [ErrorBit.pwmInitFailure, .adcInitFailure, .storageFailure, .invalidDirection, .watchdogReboot, .configError,
    .measurementFault].all fun n => n.owner.all fun p => p == owner n.index

/-- An input of a schedule with what R262 asks about who presents it. -/
structure Issued where
  input : Input
  /-- The supervisor presents it. -/
  bySupervisor : Bool
  /-- The side that does not present it is known to be idle. -/
  otherSideIdle : Bool
  deriving DecidableEq, Repr

/-- The bits a command clears (R241, R242). -/
def clearedBits : Instr → List (BitVec 5)
  | .clearError b => [b]
  | .clearAllErrors => (List.range 32).map (BitVec.ofNat 5)
  | .directionOf _ | .tableIndexOf _ | .decodeStep _ | .init | .ctrlTick | .rampTick | .measure _ | .getKp _
  | .getInitialLevel | .setError _ | .getErrorState | .wrTarget _ | .wrSetupDone _ | .wrFseDone _ | .rdTarget
  | .rdTargetPrev | .rdSetupDone | .rdFseDone | .rdState _ => []

/-- The bit a command sets as its own effect (R240); the CORE's raises are the control side's. -/
def setBits : Instr → List (BitVec 5)
  | .setError b => [b]
  | .directionOf _ | .tableIndexOf _ | .decodeStep _ | .init | .ctrlTick | .rampTick | .measure _ | .getKp _
  | .getInitialLevel | .clearError _ | .clearAllErrors | .getErrorState | .wrTarget _ | .wrSetupDone _ | .wrFseDone _
  | .rdTarget | .rdTargetPrev | .rdSetupDone | .rdFseDone | .rdState _ => []

/-- The owner discipline of R262 for one input: a bit is set by its owner's side only, and "cleared only by its setter's
side or by the supervisor when the other side is known to be idle". -/
def Issued.respects (owner : BitVec 5 → Port) (x : Issued) : Bool :=
  match x.input with
  | .command p w =>
    match decode w with
    | .ok i =>
      (setBits i).all (fun b => owner b == p) &&
        (clearedBits i).all fun b => owner b == p || (x.bySupervisor && x.otherSideIdle)
    | .error _ => true
  | .sync _ | .reset | .cvStore _ | .adc _ => true

/-- The per-bit owner discipline of R262, "a duty of the hosts", for a schedule and an assignment of owners. -/
def ownersRespected (owner : BitVec 5 → Port) (schedule : List Issued) : Bool :=
  ownerMap owner && schedule.all fun x => x.respects owner

end Sys2Proof.Machine

namespace Sys2Proof

/-- `r` is the exact `n / d` units of `2^-149` rounded to binary32, to nearest, ties to even (R19): it is finite exactly
when the exact value is below half a unit past the largest finite magnitude, then no finite value is nearer, and
where another is as near its last bit is 0.  Otherwise it is the infinity of the exact value's sign.  When and to
what a result overflows is IEEE 754's (log entry 9). -/
def F32.RoundsTo (r : F32) (n : Int) (d : Nat) : Prop :=
  (r.isFinite = true ↔ n.natAbs < (2 ^ 25 - 1) * 2 ^ 252 * d) ∧
    (r.isFinite = true → ∀ y : F32, y.isFinite = true →
      (r.value * d - n).natAbs ≤ (y.value * d - n).natAbs ∧
        ((r.value * d - n).natAbs = (y.value * d - n).natAbs → y.value ≠ r.value → r.bits.toNat % 2 = 0)) ∧
    (r.isFinite = false → r = F32.inf (n < 0))

end Sys2Proof
end

