-- ==== Sys2Proof/Certificates/Slice0/Obligations.lean ====
section
/-! DEFINITION. The statements for the provers.  Each docstring says which rule of the spec the statement formalises,
and which clause, if any, is the model's own choice. -/

open Sys2Proof Sys2Proof.Machine

/-! ### Encoding -/

/-- Decoding the word of a well-formed command gives the command back, with every operand at every value (R102, R106
to R114). -/
def Obligations.DecodingTheEncodingGivesTheCommand : Prop :=
  ∀ i : Instr, i.wf = true → decode (encode i) = .ok i

/-- A word that decodes is the one word of its command: every bit of it is significant (R113, R119). -/
def Obligations.DecodedWordIsTheEncodingOfItsCommand : Prop :=
  ∀ (w : U16) (i : Instr), decode w = .ok i → encode i = w ∧ i.wf = true

/-- A sanity check: words written out from the command map decode to their commands (R114). -/
def Obligations.WordsOfTheMapDecode : Prop :=
  decode 0x0281 = .ok (.decodeStep 0x81) ∧ decode 0x1000 = .ok .init ∧ decode 0x1100 = .ok .ctrlTick ∧
    decode 0x1200 = .ok .rampTick ∧ decode 0x2001 = .ok (.measure 1) ∧ decode 0x3096 = .ok (.getKp 150) ∧
    decode 0x4106 = .ok (.clearError 6) ∧ decode 0x508A = .ok (.wrTarget 0x8A) ∧
    decode 0x5101 = .ok (.wrSetupDone true) ∧ decode 0x5500 = .ok .rdSetupDone ∧ decode 0x6091 = .ok (.rdState 0x91)

/-- R118, whole: which words are illegal, and that an illegal word is answered `ILLEGAL` with data 0 and changes no
state (no error bit, no event).  What a step does beside is the model's own: the word leaves the list of inputs and
its port is noted (log entries 2 and 3). -/
def Obligations.IllegalWordsChangeNothing : Prop :=
  ∀ w : U16,
    let group := w.toNat / 4096
    let func := w.toNat / 256 % 16
    let imm := w.toNat % 256
    ((¬ ∃ i, decode w = .ok i) ↔
      (group = 0 ∧ 2 < func) ∨ (group = 1 ∧ 2 < func) ∨ (group = 2 ∧ 0 < func) ∨ (group = 3 ∧ 1 < func) ∨
        (group = 4 ∧ 3 < func) ∨ (group = 5 ∧ 6 < func) ∨ (group = 6 ∧ 0 < func) ∨ 7 ≤ group ∨
        ((group = 1 ∨ (group = 3 ∧ func = 1) ∨ (group = 4 ∧ 2 ≤ func) ∨ (group = 5 ∧ 3 ≤ func)) ∧ imm ≠ 0) ∨
        (group = 4 ∧ func ≤ 1 ∧ 32 ≤ imm) ∨ (group = 5 ∧ (func = 1 ∨ func = 2) ∧ 2 ≤ imm) ∨
        (group = 6 ∧ func = 0 ∧ (imm = 0x7F ∨ (0x9C ≤ imm ∧ imm ≤ 0x9F) ∨ imm = 0xAF ∨ (0xB8 ≤ imm ∧ imm ≤ 0xBF) ∨
          (0xC9 ≤ imm ∧ imm ≤ 0xCF) ∨ 0xD5 ≤ imm))) ∧
    ((¬ ∃ i, decode w = .ok i) → ∀ (p : Port) (rest : List Input) (s : State), s.inputs = .command p w :: rest →
      ∃ t, step s = .next t ∧ State.OnlyAnswers { s with inputs := rest, port := p } t ⟨.illegal, 0⟩)

/-- R290 (and R103): a command on the wrong port is answered `DENIED` and changes no state; on a port that may use it,
no command but `INIT` is answered `DENIED`. -/
def Obligations.WrongPortIsDenied : Prop :=
  ∀ (i : Instr) (s : State), i.wf = true →
    let wrong : Bool :=
      match i, s.port with
      | .wrTarget _, .c | .wrSetupDone _, .c => true
      | .init, .d | .ctrlTick, .d | .rampTick, .d | .measure _, .d | .getKp _, .d | .getInitialLevel, .d
      | .rdState _, .d | .wrFseDone _, .d => true
      | _, _ => false
    (wrong = true → ∃ t, exec i s = .next t ∧ s.OnlyAnswers t ⟨.denied, 0⟩) ∧
      (wrong = false → i ≠ .init → ∃ t r, exec i s = .next t ∧ s.Returns t r ∧ r.status ≠ .denied)

/-! ### The step -/

/-- A step whose next input is a word that decodes runs that command, on the port the word is presented at, in the
state without that input (R113; the list of inputs and the port field are the model's, log entries 2 and 3). -/
def Obligations.StepRunsTheDecodedCommand : Prop :=
  ∀ (s : State) (p : Port) (w : U16) (rest : List Input) (i : Instr),
    s.inputs = .command p w :: rest → decode w = .ok i → step s = exec i { s with inputs := rest, port := p }

/-- The other steps (R303: after `RESET` the CORE waits for commands; the inputs that replace the CV store and the ADC
driver's next answers are the model's, log entries 2, 4 and 5). -/
def Obligations.StepOfTheOtherInputs : Prop :=
  (∀ s : State, s.inputs = [] → step s = .next s) ∧
    (∀ (s : State) (c : CvConfig) (rest : List Input), s.inputs = .cvStore c :: rest →
      step s = .next { s with inputs := rest, cv := c }) ∧
    ∀ (s : State) (as : List AdcAnswer) (rest : List Input), s.inputs = .adc as :: rest →
      step s = .next { s with inputs := rest, adcAnswers := as }

/-- A command's word placed by `withFetchWord` is the next that a step runs, at a port that may use it (R103; the placing
is the model's, log entry 2). -/
def Obligations.PlacedWordIsTheNextRun : Prop :=
  ∀ (i : Instr) (s : State), i.wf = true →
    step (s.withFetchWord 16 (encode i).toNat) =
      exec i { s with port := match i with | .wrTarget _ | .wrSetupDone _ => .d | _ => .c }

/-- R104 and R13: a step that takes a command's word answers a next state (nothing traps, halts or hangs) with exactly
one response, on that port; its data is 0 for every status but `OK` and `FAULT`, and the three refusals `ILLEGAL`,
`DENIED`, `NOT_READY` change no state. -/
def Obligations.EveryWordReturnsOneResponse : Prop :=
  ∀ (s : State) (p : Port) (w : U16) (rest : List Input), s.inputs = .command p w :: rest →
    ∃ t r, step s = .next t ∧ State.Returns { s with inputs := rest, port := p } t r ∧
      (r.status ≠ .ok → r.status ≠ .fault →
        r.data = 0 ∧ State.OnlyAnswers { s with inputs := rest, port := p } t r)

/-! ### The codec -/

/-- R134 with R131: `DIRECTION_OF`, the words `0x00ss`, returns 1 for `step >= 128`, else 0, on both ports, and changes
nothing. -/
def Obligations.DirectionOfReturnsTheTopBit : Prop :=
  ∀ (ss : U8) (s : State), decode (0x00#8 ++ ss) = .ok (.directionOf ss) ∧
    ∃ t, exec (.directionOf ss) s = .next t ∧ s.OnlyAnswers t ⟨.ok, if 128 ≤ ss.toNat then 1 else 0⟩

/-- R135 with R132: `TABLE_INDEX_OF`, the words `0x01ss`, returns 0 for stop and emergency stop and `s - 1` otherwise, with
`s = step[6:0]`, never above 126, on both ports, and changes nothing. -/
def Obligations.TableIndexOfReturnsTheIndex : Prop :=
  ∀ (ss : U8) (s : State), decode (0x01#8 ++ ss) = .ok (.tableIndexOf ss) ∧
    ∃ t d, exec (.tableIndexOf ss) s = .next t ∧ s.OnlyAnswers t ⟨.ok, d⟩ ∧
      d.toNat = (if ss.toNat % 128 ≤ 1 then 0 else ss.toNat % 128 - 1) ∧ d.toNat ≤ 126

/-- R136 with R131 to R133: the fields of the data of `DECODE_STEP`, the words `0x02ss`, on both ports; it changes
nothing. -/
def Obligations.DecodeStepReturnsTheWholeLookup : Prop :=
  ∀ (ss : U8) (s : State), decode (0x02#8 ++ ss) = .ok (.decodeStep ss) ∧
    ∃ t d, exec (.decodeStep ss) s = .next t ∧ s.OnlyAnswers t ⟨.ok, d⟩ ∧
      d.toNat % 2 ^ 7 = (if ss.toNat % 128 ≤ 1 then 0 else ss.toNat % 128 - 1) ∧
      d.toNat / 2 ^ 7 % 2 ^ 7 = ss.toNat % 128 ∧
      d.toNat / 2 ^ 14 % 2 ^ 2 = (if ss.toNat % 128 = 0 then 0 else if ss.toNat % 128 = 1 then 1 else 2) ∧
      d.toNat / 2 ^ 16 = ss.toNat / 128

/-! ### Shared fields -/

/-- R230: `WR_TARGET`, the words `0x50ss`, on port D: the old target moves to the writer's copy of the previous target,
the operand becomes the writer's copy of the target, both in one step; nothing else changes.  On port C it is
`DENIED` and nothing changes. -/
def Obligations.WrTargetMovesTheOldTarget : Prop :=
  ∀ (ss : U8) (s : State), decode (0x50#8 ++ ss) = .ok (.wrTarget ss) ∧
    (s.port = .d →
      ∃ t, exec (.wrTarget ss) s = .next t ∧ s.Returns t ⟨.ok, 0⟩ ∧
        t.prev.w = s.target.w ∧ t.target.w = ss ∧ t.prev.r = s.prev.r ∧ t.target.r = s.target.r ∧
        { t with target := s.target, prev := s.prev, respC := s.respC, respD := s.respD } = s) ∧
    (s.port = .c → ∃ t, exec (.wrTarget ss) s = .next t ∧ s.OnlyAnswers t ⟨.denied, 0⟩)

/-- R231 and R232: `WR_SETUP_DONE` (words `0x510v`) on port D and `WR_FSE_DONE` (words `0x520v`) on port C each write the
writer's copy of their flag and nothing else, whatever `initialised` is; on the other port each is `DENIED`. -/
def Obligations.HandshakeWritesTheWritersCopy : Prop :=
  (∀ (v : Bool) (s : State), decode (0x5100 + if v then 1 else 0) = .ok (.wrSetupDone v) ∧
    (s.port = .d →
      ∃ t, exec (.wrSetupDone v) s = .next t ∧ s.Returns t ⟨.ok, 0⟩ ∧ t.setup.w = v ∧ t.setup.r = s.setup.r ∧
        { t with setup := s.setup, respC := s.respC, respD := s.respD } = s) ∧
    (s.port = .c → ∃ t, exec (.wrSetupDone v) s = .next t ∧ s.OnlyAnswers t ⟨.denied, 0⟩)) ∧
  ∀ (v : Bool) (s : State), decode (0x5200 + if v then 1 else 0) = .ok (.wrFseDone v) ∧
    (s.port = .c →
      ∃ t, exec (.wrFseDone v) s = .next t ∧ s.Returns t ⟨.ok, 0⟩ ∧ t.fse.w = v ∧ t.fse.r = s.fse.r ∧
        { t with fse := s.fse, respC := s.respC, respD := s.respD } = s) ∧
    (s.port = .d → ∃ t, exec (.wrFseDone v) s = .next t ∧ s.OnlyAnswers t ⟨.denied, 0⟩)

/-- R233 to R236: the four reads, the words `0x5300` to `0x5600`, on both ports; the writing port reads the writer's copy,
the other port the reader's copy, zero-extended; nothing changes. -/
def Obligations.SharedReadsAreOfThePortsCopy : Prop :=
  decode 0x5300 = .ok .rdTarget ∧ decode 0x5400 = .ok .rdTargetPrev ∧ decode 0x5500 = .ok .rdSetupDone ∧
  decode 0x5600 = .ok .rdFseDone ∧
  ∀ s : State,
    let answers (i : Instr) (n : Nat) : Prop :=
      ∃ t d, exec i s = .next t ∧ s.OnlyAnswers t ⟨.ok, d⟩ ∧ d.toNat = n
    (s.port = .d →
      answers .rdTarget s.target.w.toNat ∧ answers .rdTargetPrev s.prev.w.toNat ∧
        answers .rdSetupDone (if s.setup.w then 1 else 0) ∧ answers .rdFseDone (if s.fse.r then 1 else 0)) ∧
    (s.port = .c →
      answers .rdTarget s.target.r.toNat ∧ answers .rdTargetPrev s.prev.r.toNat ∧
        answers .rdSetupDone (if s.setup.r then 1 else 0) ∧ answers .rdFseDone (if s.fse.w then 1 else 0))

/-- The synchroniser step of R77: `F.r <- F.w`, the whole field at once, and nothing else changes. -/
def Obligations.SyncCopiesOneField : Prop :=
  ∀ (s : State) (f : SharedField) (rest : List Input), s.inputs = .sync f :: rest →
    ∃ t, step s = .next t ∧
      match f with
      | .target => t.target.r = s.target.w ∧ t.target.w = s.target.w ∧
          { t with target := s.target } = { s with inputs := rest }
      | .prev => t.prev.r = s.prev.w ∧ t.prev.w = s.prev.w ∧ { t with prev := s.prev } = { s with inputs := rest }
      | .setup => t.setup.r = s.setup.w ∧ t.setup.w = s.setup.w ∧
          { t with setup := s.setup } = { s with inputs := rest }
      | .fse => t.fse.r = s.fse.w ∧ t.fse.w = s.fse.w ∧ { t with fse := s.fse } = { s with inputs := rest }

/-- The single-writer convention over every step (R51, R76, R237): a writer's copy changes only by the owning port's
write command or reset, a reader's copy only by its `SYNC` or reset. -/
def Obligations.OnlyOwnersAndSyncsChangeSharedFields : Prop :=
  ∀ s t : State, step s = .next t → s.inputs.head? ≠ some .reset →
    let head := s.inputs.head?
    ((t.target.w ≠ s.target.w ∨ t.prev.w ≠ s.prev.w) →
        ∃ w ss, head = some (.command .d w) ∧ decode w = .ok (.wrTarget ss)) ∧
      (t.setup.w ≠ s.setup.w → ∃ w v, head = some (.command .d w) ∧ decode w = .ok (.wrSetupDone v)) ∧
      (t.fse.w ≠ s.fse.w → ∃ w v, head = some (.command .c w) ∧ decode w = .ok (.wrFseDone v)) ∧
      (t.target.r ≠ s.target.r → head = some (.sync .target)) ∧
      (t.prev.r ≠ s.prev.r → head = some (.sync .prev)) ∧
      (t.setup.r ≠ s.setup.r → head = some (.sync .setup)) ∧
      (t.fse.r ≠ s.fse.r → head = some (.sync .fse))

/-- Port D touches only the shared fields' writer's copies and the error bitmask (R10 agent 2, R80): whatever word it
presents, every register of `ControllerParameters`, every reader's copy the control core reads, the event history
and port C's response stay. -/
def Obligations.PortDTouchesOnlySharedState : Prop :=
  ∀ (s t : State) (w : U16) (rest : List Input), s.inputs = .command .d w :: rest → step s = .next t →
    { t with target := s.target, prev := s.prev, setup := s.setup, errorState := s.errorState, respD := s.respD } =
        { s with inputs := rest, port := .d } ∧
      t.target.r = s.target.r ∧ t.prev.r = s.prev.r ∧ t.setup.r = s.setup.r

/-! ### The error bitmask -/

/-- R240: `SET_ERROR b`, the words `0x40bb` with `bb` below 32, sets bit `b` of `error_state`, no other, and returns the new value, on either port. -/
def Obligations.SetErrorSetsOneBit : Prop :=
  ∀ (b : BitVec 5) (s : State), decode (BitVec.ofNat 16 (0x4000 + b.toNat)) = .ok (.setError b) ∧
    ∃ t, exec (.setError b) s = .next t ∧ s.Returns t ⟨.ok, t.errorState⟩ ∧ (∀ k, k < 32 → t.errorState.getLsbD k = (s.errorState.getLsbD k || k == b.toNat)) ∧
    { t with errorState := s.errorState, respC := s.respC, respD := s.respD } = s

/-- R241: `CLEAR_ERROR b`, the words `0x41bb` with `bb` below 32, clears bit `b` of `error_state`, no other, and returns the new value, on either port; it
restores nothing (R267). -/
def Obligations.ClearErrorClearsOneBit : Prop :=
  ∀ (b : BitVec 5) (s : State), decode (BitVec.ofNat 16 (0x4100 + b.toNat)) = .ok (.clearError b) ∧
    ∃ t, exec (.clearError b) s = .next t ∧ s.Returns t ⟨.ok, t.errorState⟩ ∧ (∀ k, k < 32 → t.errorState.getLsbD k = (s.errorState.getLsbD k && k != b.toNat)) ∧
    { t with errorState := s.errorState, respC := s.respC, respD := s.respD } = s

/-- R242 and R243: `CLEAR_ALL_ERRORS` zeroes `error_state` and returns 0; `GET_ERROR_STATE` returns the register and
clears nothing; their words are `0x4200` and `0x4300`, on either port. -/
def Obligations.ClearAllErrorsAndGetErrorState : Prop :=
  decode 0x4200 = .ok .clearAllErrors ∧ decode 0x4300 = .ok .getErrorState ∧ ∀ s : State,
    (∃ t, exec .clearAllErrors s = .next t ∧ s.Returns t ⟨.ok, 0⟩ ∧ t.errorState = 0 ∧
      { t with errorState := s.errorState, respC := s.respC, respD := s.respD } = s) ∧
    ∃ t, exec .getErrorState s = .next t ∧ s.OnlyAnswers t ⟨.ok, s.errorState⟩

/-- R244 (b) over every step: a bit, once set, stays set until a `CLEAR_ERROR` of that bit, a `CLEAR_ALL_ERRORS` or
reset. -/
def Obligations.ErrorBitsStayUntilCleared : Prop :=
  ∀ (s t : State) (k : Nat), step s = .next t → s.errorState.getLsbD k = true → t.errorState.getLsbD k = false →
    s.inputs.head? = some .reset ∨
      ∃ p w, s.inputs.head? = some (.command p w) ∧
        (decode w = .ok .clearAllErrors ∨ ∃ b, decode w = .ok (.clearError b) ∧ b.toNat = k)

/-- R261 over every step: a bit is set only by `SET_ERROR` of that bit, or by the CORE at the five places the table of
R261 lists: bit 3 by `MEASURE` with an operand of 2 or more, bit 5 by `INIT`, `MEASURE` and a PID tick, bit 6 by
`MEASURE` and a PID tick, all on port C. -/
def Obligations.OnlyListedCausesSetErrorBits : Prop :=
  ∀ (s t : State) (k : Nat), step s = .next t → s.errorState.getLsbD k = false → t.errorState.getLsbD k = true →
    ∃ p w i, s.inputs.head? = some (.command p w) ∧ decode w = .ok i ∧
      ((∃ b, i = .setError b ∧ b.toNat = k) ∨
        p = .c ∧
          ((k = 3 ∧ ∃ kk : U8, i = .measure kk ∧ 2 ≤ kk.toNat) ∨
            (k = 5 ∧ i = .init ∧ s.initialised = false) ∨
            ((k = 5 ∨ k = 6) ∧
              ((∃ kk, i = .measure kk) ∨
                (i = .ctrlTick ∧ s.initialised = true ∧ s.mode = .pid ∧ s.setpoint ≠ 0)))))

/-- R244 (d): set error bits change no command's behaviour.  Whatever `error_state` holds, a command other than the
three that return the register (`SET_ERROR`, `CLEAR_ERROR`, `GET_ERROR_STATE`, and `RD_STATE` of index 0xD4) does the
same to everything else and returns the same response.  (The ADC answers are the same in both: where none is known,
that is the model's, log entry 4.) -/
def Obligations.ErrorStateDecidesNothing : Prop :=
  ∀ (i : Instr) (s t : State) (e : U32), (∀ b, i ≠ .setError b) → (∀ b, i ≠ .clearError b) → i ≠ .getErrorState →
    i ≠ .rdState 0xD4 → exec i s = .next t →
    ∃ t', exec i { s with errorState := e } = .next t' ∧ { t' with errorState := t.errorState } = t

/-! ### The sampler -/

/-- R148 and R149 (with R140, R143, R144, R146) on the path without a fault: with the driver's `n` answers known and none
faulted, the samples in ascending order cut into `l` lowest, the kept ones and `r` highest, `MEASURE` returns
`fdiv(i2f(sum of kept), i2f(number of kept))`; it emits the events of R140 in order on the sense pin of the
direction, restores the drive, and changes no register.  That known answers are used in order and the surplus stays
for the next command is the model's choice (log entries 4 and 21).  The mean is R149's also
for a sum of `2^24` or more, where R151 (c) differs (log entry 23). -/
def Obligations.MeasureReturnsTheTrimmedMean : Prop :=
  ∀ (kk : U8) (s : State) (answers rest : List AdcAnswer) (low kept high : List Nat),
    s.port = .c → kk.toNat ≤ 1 →
    s.adcAnswers = answers ++ rest → answers.length = s.bemf.totalIterations.toNat →
    (∀ a ∈ answers, a.fault = false ∧ a.sample < 2 ^ (s.params.adcBitsPred.val + 1)) →
    (low ++ kept ++ high).Perm (answers.map fun a => a.sample) → (low ++ kept ++ high).Pairwise (· ≤ ·) →
    low.length = s.bemf.leftCutoff.toNat → high.length = s.bemf.rightCutoff.toNat → kept ≠ [] →
    s.bemf.totalIterations.toNat ≤ s.params.maxSamplesPred.val + 1 →
    ∃ t, exec (.measure kk) s = .next t ∧
      s.Returns t ⟨.ok, (fdiv (i2f kept.sum) (i2f kept.length)).bits⟩ ∧
      t.events = s.events ++ [.disableDrive, .waitUs s.bemf.delayUs] ++
        List.replicate s.bemf.totalIterations.toNat (.readAdc (if kk = 0 then s.params.senseReverse else s.params.senseForward)) ++
        (if s.driveEnabled then [.enableDrive] else []) ∧
      t.adcAnswers = rest ∧
      { t with events := s.events, adcAnswers := s.adcAnswers, respC := s.respC, respD := s.respD } = s

/-- R143, R144, R146, R147 whatever the ADC answers: where the contract of R142 holds, `MEASURE` with a valid direction
emits its events in order, reads exactly `n` times, restores the drive on every path, and either returns `OK` with no
bit raised or returns `FAULT` with data 0 and bit 6 raised; no other register changes.  (Which answers are drawn is the
environment's: log entry 4.) -/
def Obligations.MeasureRestoresTheDrive : Prop :=
  ∀ (kk : U8) (s : State), s.port = .c → kk.toNat ≤ 1 →
    s.bemf.leftCutoff.toNat + s.bemf.rightCutoff.toNat < s.bemf.totalIterations.toNat →
    s.bemf.totalIterations.toNat ≤ s.params.maxSamplesPred.val + 1 →
    ∃ t, exec (.measure kk) s = .next t ∧
      t.events = s.events ++ [.disableDrive, .waitUs s.bemf.delayUs] ++
        List.replicate s.bemf.totalIterations.toNat (.readAdc (if kk = 0 then s.params.senseReverse else s.params.senseForward)) ++
        (if s.driveEnabled then [.enableDrive] else []) ∧
      ((∃ d, s.Returns t ⟨.ok, d⟩ ∧ t.errorState = s.errorState) ∨
        (s.Returns t ⟨.fault, 0⟩ ∧ t.errorState = s.errorState ||| 0x40)) ∧
      { t with
        events := s.events, errorState := s.errorState, adcAnswers := s.adcAnswers, adcDraws := s.adcDraws
        respC := s.respC, respD := s.respD } = s

/-- R142: a broken contract raises `CONFIG_ERROR` (bit 5) and returns `FAULT` before the drive is touched: no event, no
sample, nothing else changed. -/
def Obligations.MeasureFaultsOnABrokenContract : Prop :=
  ∀ (kk : U8) (s : State), s.port = .c → kk.toNat ≤ 1 →
    (s.bemf.totalIterations.toNat ≤ s.bemf.leftCutoff.toNat + s.bemf.rightCutoff.toNat ∨
      s.params.maxSamplesPred.val + 1 < s.bemf.totalIterations.toNat) →
    ∃ t, exec (.measure kk) s = .next t ∧ s.Returns t ⟨.fault, 0⟩ ∧ t.errorState = s.errorState ||| 0x20 ∧
      { t with errorState := s.errorState, respC := s.respC, respD := s.respD } = s

/-- R147: when one of the `n` reads reports a fault, `MEASURE` raises `MEASUREMENT_FAULT` (bit 6) and returns
`(FAULT, 0)`; all `n` reads are made and the drive is restored (R144, R146).  That known answers are used in order and the
surplus stays for the next command is the model's choice (log entries 4 and 21). -/
def Obligations.MeasureFaultsOnASampleFault : Prop :=
  ∀ (kk : U8) (s : State) (answers rest : List AdcAnswer), s.port = .c → kk.toNat ≤ 1 →
    s.bemf.leftCutoff.toNat + s.bemf.rightCutoff.toNat < s.bemf.totalIterations.toNat →
    s.bemf.totalIterations.toNat ≤ s.params.maxSamplesPred.val + 1 →
    s.adcAnswers = answers ++ rest → answers.length = s.bemf.totalIterations.toNat →
    (∃ a ∈ answers, a.fault = true) →
    ∃ t, exec (.measure kk) s = .next t ∧ s.Returns t ⟨.fault, 0⟩ ∧ t.errorState = s.errorState ||| 0x40 ∧
      t.adcAnswers = rest ∧
      t.events = s.events ++ [.disableDrive, .waitUs s.bemf.delayUs] ++
        List.replicate s.bemf.totalIterations.toNat (.readAdc (if kk = 0 then s.params.senseReverse else s.params.senseForward)) ++
        (if s.driveEnabled then [.enableDrive] else []) ∧
      { t with
        events := s.events, errorState := s.errorState, adcAnswers := s.adcAnswers, respC := s.respC
        respD := s.respD } = s

/-- R141: an invalid direction code raises `INVALID_DIRECTION` (bit 3) and measures with the default direction; the status
is whatever the measurement gives.  The default direction is an open parameter (R9), which the spec sets to
Forward. -/
def Obligations.MeasureWithAnInvalidDirection : Prop :=
  (∀ (kk : U8) (s : State), s.port = .c → 2 ≤ kk.toNat →
    exec (.measure kk) s =
      exec (.measure (if s.params.defaultDirection = .forward then 1 else 0))
        { s with errorState := s.errorState ||| 0x08 }) ∧
    State.reset.params.defaultDirection = .forward

/-- R150 (a): with a sum below `2^24` the trimmed mean lies between the smallest and the largest kept sample. -/
def Obligations.TrimmedMeanLiesWithinTheKeptSamples : Prop :=
  ∀ (kept : List Nat) (lo hi : Nat), kept ≠ [] → kept.length ≤ 255 → kept.sum < 2 ^ 24 → lo ∈ kept → hi ∈ kept →
    (∀ v ∈ kept, lo ≤ v ∧ v ≤ hi) →
    fle (i2f lo) (fdiv (i2f kept.sum) (i2f kept.length)) = true ∧
      fle (fdiv (i2f kept.sum) (i2f kept.length)) (i2f hi) = true

/-! ### The startup controller -/

/-- R164 with R162, R163: `GET_INITIAL_LEVEL`, the word `0x3100`, returns on port C, before or after `INIT`, two thirds of
the average over the populated slots, `+0.0` averaging an empty history; on port D it is `DENIED`; it changes
nothing. -/
def Obligations.GetInitialLevelAveragesThePopulatedSlots : Prop :=
  decode 0x3100 = .ok .getInitialLevel ∧ ∀ s : State,
    let count := s.startup.histCount.val
    let avg :=
      if count = 0 then F32.ofBits 0 else
        fdiv (i2f (((s.startup.history.toList.take count).map fun h => h.toNat).sum)) (i2f count)
    (s.port = .c →
      ∃ t, exec .getInitialLevel s = .next t ∧ s.OnlyAnswers t ⟨.ok, (fmul (F32.ofBits 0x3F2AAAAB) avg).bits⟩) ∧
    (s.port = .d → ∃ t, exec .getInitialLevel s = .next t ∧ s.OnlyAnswers t ⟨.denied, 0⟩)

/-- R165 to R167, a startup tick: the level is the seed or one ramp step more, cut to the ceiling and never wrapping; it
is applied with one `set_pwm` and `seeded` is set.  Below the ceiling nothing else changes (R169); at it the next
statement says the rest. -/
def Obligations.StartupTickRampsUpToTheCeiling : Prop :=
  ∀ s : State, s.port = .c → s.initialised = true → s.setpoint ≠ 0 → s.mode = .startup →
    let ceiling := min s.speedTable[s.setpoint].toNat (truncU16 s.pid.maxOutput).toNat
    let level :=
      min (if s.startup.seeded then s.startup.level.toNat + s.startup.rampStep.toNat
        else (truncU16 s.startup.initialLevel).toNat) ceiling
    ∃ t, exec .ctrlTick s = .next t ∧ t.startup.level.toNat = level ∧ t.pwmLevel = t.startup.level ∧
      t.startup.seeded = true ∧ t.events = s.events ++ [.setPwm t.pwmLevel] ∧
      (level < ceiling →
        s.Returns t ⟨.ok, BitVec.ofNat 32 level⟩ ∧
        t.startup = { s.startup with level := t.pwmLevel, seeded := true } ∧
        { t with
          startup := s.startup, pwmLevel := s.pwmLevel, events := s.events, respC := s.respC, respD := s.respD } = s)

/-- R168, R169 in the tick that reaches the ceiling: the level is recorded at the ring index, index and count advance,
the feed-forward is computed over the ring that includes it, the PID's running terms are zeroed and the mode becomes
`Pid`; nothing else changes. -/
def Obligations.HandoffRecordsTheLevelAndEntersPid : Prop :=
  ∀ s : State, s.port = .c → s.initialised = true → s.setpoint ≠ 0 → s.mode = .startup →
    let ceiling := min s.speedTable[s.setpoint].toNat (truncU16 s.pid.maxOutput).toNat
    let count := min (s.startup.histCount.val + 1) 16
    ceiling ≤ (if s.startup.seeded then s.startup.level.toNat + s.startup.rampStep.toNat
        else (truncU16 s.startup.initialLevel).toNat) →
    ∃ t, exec .ctrlTick s = .next t ∧ t.pwmLevel.toNat = ceiling ∧ t.events = s.events ++ [.setPwm t.pwmLevel] ∧
      (∀ j : Fin 16, t.startup.history[j] = if j = s.startup.histIdx then t.pwmLevel else s.startup.history[j]) ∧
      t.startup.histIdx.val = (s.startup.histIdx.val + 1) % 16 ∧ t.startup.histCount.val = count ∧
      t.startup.level = t.pwmLevel ∧ t.startup.seeded = true ∧ t.startup.kFf = s.startup.kFf ∧
      t.startup.rampStep = s.startup.rampStep ∧
      t.feedForward = fmul s.startup.kFf
        (fdiv (i2f (((t.startup.history.toList.take count).map fun h => h.toNat).sum)) (i2f count)) ∧
      t.pid = { s.pid with ePrev := F32.ofBits 0, iPrev := F32.ofBits 0, dPrev := F32.ofBits 0 } ∧ t.mode = .pid ∧
      s.Returns t ⟨.ok, BitVec.ofNat 32 (2 ^ 16 + ceiling)⟩ ∧
      { t with
        startup := s.startup, pwmLevel := s.pwmLevel, events := s.events, feedForward := s.feedForward
        pid := s.pid, mode := s.mode, respC := s.respC, respD := s.respD } = s

/-! ### The PID controller -/

/-- R185 with R182, R183: `GET_KP`, the words `0x30vv`, returns on port C the gain schedule's value at `vv`, exactly one of
the four cases, before or after `INIT`; on port D it is `DENIED`; it changes nothing. -/
def Obligations.GetKpFollowsTheSegments : Prop :=
  ∀ (vv : U8) (s : State), decode (0x30#8 ++ vv) = .ok (.getKp vv) ∧
    (s.port = .d → ∃ t, exec (.getKp vv) s = .next t ∧ s.OnlyAnswers t ⟨.denied, 0⟩) ∧
    (s.port = .c →
      let x := fsub (i2f vv.toNat) s.pid.x1Shift
      ∃ t k, exec (.getKp vv) s = .next t ∧ s.OnlyAnswers t ⟨.ok, k.bits⟩ ∧ k = s.pid.getKp vv.toNat ∧
        (fle x (F32.ofBits 0) = true → k = s.pid.y0) ∧
        (fle x (F32.ofBits 0) = false → flt x s.pid.x1 = true → k = fadd s.pid.y0 (fmul s.pid.m1 x)) ∧
        (fle x (F32.ofBits 0) = false → flt x s.pid.x1 = false → flt x s.pid.x2 = true →
          k = fadd s.pid.y1 (fmul s.pid.m2 (fsub x s.pid.x1))) ∧
        (fle x (F32.ofBits 0) = false → flt x s.pid.x1 = false → flt x s.pid.x2 = false → k = s.pid.y2))

/-- R184: with a finite configuration and `0 < x1 < x2`, the schedule is exactly `y1` where the shifted input equals `x1`
(case (c) with a zero difference) and exactly `y2` where it equals `x2`. -/
def Obligations.GetKpIsExactAtTheBreakpoints : Prop :=
  ∀ (p : PidState) (sp : Nat), p.x1.isFinite = true → p.y1.isFinite = true → p.m2.isFinite = true →
    flt (F32.ofBits 0) p.x1 = true → flt p.x1 p.x2 = true →
    (feq (fsub (i2f sp) p.x1Shift) p.x1 = true → feq (p.getKp sp) p.y1 = true) ∧
      (feq (fsub (i2f sp) p.x1Shift) p.x2 = true → p.getKp sp = p.y2)

/-- R195, R186 to R194: a PID tick whose measurement is accepted and whose output sum is not NaN.  `m` is the trimmed
mean of R149; every register the tick writes has the value the rule's formula gives, in the order of operations
written; everything else stays.  That known answers are used in order and the surplus stays for the next command is
the model's choice (log entries 4 and 21).  The mean is R149's also
for a sum of `2^24` or more, where R151 (c) differs (log entry 23). -/
def Obligations.PidTickUpdatesFromTheMeasurement : Prop :=
  ∀ (s : State) (answers rest : List AdcAnswer) (low kept high : List Nat),
    s.port = .c → s.initialised = true → s.setpoint ≠ 0 → s.mode = .pid →
    s.adcAnswers = answers ++ rest → answers.length = s.bemf.totalIterations.toNat →
    (∀ a ∈ answers, a.fault = false ∧ a.sample < 2 ^ (s.params.adcBitsPred.val + 1)) →
    (low ++ kept ++ high).Perm (answers.map fun a => a.sample) → (low ++ kept ++ high).Pairwise (· ≤ ·) →
    low.length = s.bemf.leftCutoff.toNat → high.length = s.bemf.rightCutoff.toNat → kept ≠ [] →
    s.bemf.totalIterations.toNat ≤ s.params.maxSamplesPred.val + 1 →
    let m := fdiv (i2f kept.sum) (i2f kept.length)
    let mc := fsub m s.meas.adcOffset
    let e := fsub mc (i2f s.speedTable[s.setpoint].toNat)
    let kp := s.pid.getKp s.setpoint.val
    let i := clamp (fadd s.pid.iPrev (fmul s.pid.ci0 (fadd e s.pid.ePrev))) s.pid.intLimMin s.pid.intLimMax
    let d := fadd (fmul s.pid.cd0 (fsub e s.pid.ePrev)) (fmul s.pid.cd1 s.pid.dPrev)
    let u := fadd (fadd (fadd (fmul kp e) i) d) s.feedForward
    u.isNaN = false →
    ∃ t, exec .ctrlTick s = .next t ∧
      t.pwmLevel = truncU16 (clamp u (F32.ofBits 0) s.pid.maxOutput) ∧
      s.Returns t ⟨.ok, BitVec.ofNat 32 (2 ^ 16 + t.pwmLevel.toNat)⟩ ∧
      t.meas = { s.meas with rawPrev := s.meas.raw, raw := m, corrected := mc } ∧
      t.pid = { s.pid with e := e, kP := kp, ePrev := e, iPrev := i, dPrev := d } ∧
      t.events = s.events ++ [.disableDrive, .waitUs s.bemf.delayUs] ++
        List.replicate s.bemf.totalIterations.toNat
          (.readAdc (if 128 ≤ s.target.r.toNat then s.params.senseForward else s.params.senseReverse)) ++
        (if s.driveEnabled then [.enableDrive] else []) ++ [.setPwm t.pwmLevel] ∧
      t.adcAnswers = rest ∧
      { t with
        pwmLevel := s.pwmLevel, meas := s.meas, pid := s.pid, events := s.events, adcAnswers := s.adcAnswers
        respC := s.respC, respD := s.respD } = s

/-- R186, the hold: a PID tick answers `OK`, or it answers `FAULT` with the held level and the unchanged mode and then
changes no register but `error_state`, of which it raises bit 5 or bit 6; it emits no `set_pwm`.  A broken contract holds
with bit 5, and a sample fault among known answers with bit 6. -/
def Obligations.PidTickHoldsOnAFault : Prop :=
  ∀ s : State, s.port = .c → s.initialised = true → s.setpoint ≠ 0 → s.mode = .pid →
    ∃ t st, exec .ctrlTick s = .next t ∧
      s.Returns t ⟨st, BitVec.ofNat 32 (2 ^ 16 + t.pwmLevel.toNat)⟩ ∧ t.mode = .pid ∧
      ((st = .ok ∧ t.errorState = s.errorState) ∨
        (st = .fault ∧ (t.errorState = s.errorState ||| 0x20 ∨ t.errorState = s.errorState ||| 0x40) ∧
          (∃ es, t.events = s.events ++ es ∧ ∀ level, .setPwm level ∉ es) ∧
          { t with
            errorState := s.errorState, events := s.events, adcAnswers := s.adcAnswers, adcDraws := s.adcDraws
            respC := s.respC, respD := s.respD } = s)) ∧
      ((s.bemf.totalIterations.toNat ≤ s.bemf.leftCutoff.toNat + s.bemf.rightCutoff.toNat ∨
          s.params.maxSamplesPred.val + 1 < s.bemf.totalIterations.toNat) →
        st = .fault ∧ t.errorState = s.errorState ||| 0x20 ∧ t.events = s.events) ∧
      (∀ answers rest, s.adcAnswers = answers ++ rest → answers.length = s.bemf.totalIterations.toNat →
        s.bemf.leftCutoff.toNat + s.bemf.rightCutoff.toNat < s.bemf.totalIterations.toNat →
        s.bemf.totalIterations.toNat ≤ s.params.maxSamplesPred.val + 1 →
        (∃ a ∈ answers, a.fault = true) → st = .fault ∧ t.errorState = s.errorState ||| 0x40)

/-- R192, the poisoned sum: a PID tick whose measurement is accepted and whose output sum is NaN raises
`MEASUREMENT_FAULT` (bit 6), returns `FAULT` with the held level and mode, and writes nothing else; the measurement's
own events have been emitted and no `set_pwm`.  That known answers are used in order and the surplus stays for the next
command is the model's choice (log entries 4 and 21).  The mean is R149's also
for a sum of `2^24` or more, where R151 (c) differs (log entry 23). -/
def Obligations.PidTickHoldsOnANaNSum : Prop :=
  ∀ (s : State) (answers rest : List AdcAnswer) (low kept high : List Nat),
    s.port = .c → s.initialised = true → s.setpoint ≠ 0 → s.mode = .pid →
    s.adcAnswers = answers ++ rest → answers.length = s.bemf.totalIterations.toNat →
    (∀ a ∈ answers, a.fault = false ∧ a.sample < 2 ^ (s.params.adcBitsPred.val + 1)) →
    (low ++ kept ++ high).Perm (answers.map fun a => a.sample) → (low ++ kept ++ high).Pairwise (· ≤ ·) →
    low.length = s.bemf.leftCutoff.toNat → high.length = s.bemf.rightCutoff.toNat → kept ≠ [] →
    s.bemf.totalIterations.toNat ≤ s.params.maxSamplesPred.val + 1 →
    let m := fdiv (i2f kept.sum) (i2f kept.length)
    let e := fsub (fsub m s.meas.adcOffset) (i2f s.speedTable[s.setpoint].toNat)
    let i := clamp (fadd s.pid.iPrev (fmul s.pid.ci0 (fadd e s.pid.ePrev))) s.pid.intLimMin s.pid.intLimMax
    let d := fadd (fmul s.pid.cd0 (fsub e s.pid.ePrev)) (fmul s.pid.cd1 s.pid.dPrev)
    let u := fadd (fadd (fadd (fmul (s.pid.getKp s.setpoint.val) e) i) d) s.feedForward
    u.isNaN = true →
    ∃ t, exec .ctrlTick s = .next t ∧ s.Returns t ⟨.fault, BitVec.ofNat 32 (2 ^ 16 + s.pwmLevel.toNat)⟩ ∧
      t.errorState = s.errorState ||| 0x40 ∧
      t.events = s.events ++ [.disableDrive, .waitUs s.bemf.delayUs] ++
        List.replicate s.bemf.totalIterations.toNat
          (.readAdc (if 128 ≤ s.target.r.toNat then s.params.senseForward else s.params.senseReverse)) ++
        (if s.driveEnabled then [.enableDrive] else []) ∧
      t.adcAnswers = rest ∧
      { t with
        errorState := s.errorState, events := s.events, adcAnswers := s.adcAnswers, respC := s.respC
        respD := s.respD } = s

/-- R190 and R193 as bounds: after a PID tick that answers `OK`, the integral lies within its limits where they are
ordered, and the level applied is at most the truncated `max_output` where that lies in `[0, 65535]`. -/
def Obligations.PidTickKeepsIntegralAndOutputInBounds : Prop :=
  ∀ (s t : State) (d : U32), s.port = .c → s.initialised = true → s.setpoint ≠ 0 → s.mode = .pid →
    exec .ctrlTick s = .next t → s.Returns t ⟨.ok, d⟩ →
    (fle s.pid.intLimMin s.pid.intLimMax = true →
      fle s.pid.intLimMin t.pid.iPrev = true ∧ fle t.pid.iPrev s.pid.intLimMax = true) ∧
    (fle (F32.ofBits 0) s.pid.maxOutput = true → fle s.pid.maxOutput (F32.ofBits 0x477FFF00) = true →
      t.pwmLevel.toNat ≤ (truncU16 s.pid.maxOutput).toNat)

/-! ### INIT, the ticks and the mode -/

/-- R200, R202 to R205: a first `INIT` with the ready flag seen and a valid record loads every field and the five derived
registers, zeroes the level, enables the drive and sets `initialised`; nothing else changes.  The formulas of R204 for
the three coefficients are marked by the spec as its own ("from general knowledge, not in source"). -/
def Obligations.InitLoadsAValidConfig : Prop :=
  ∀ s : State, s.port = .c → s.initialised = false → s.setup.r = true →
    let c := s.cv
    let m1 := fdiv (fsub c.y1 c.y0) c.x1
    let m2 := fdiv (fsub c.y2 c.y1) (fsub c.x2 c.x1)
    let two := F32.ofBits 0x40000000
    let ci0 := fdiv (fmul c.kI c.t) two
    let den := fadd (fmul two c.tau) c.t
    let cd0 := fdiv (fmul two c.kD) den
    let cd1 := fdiv (fsub (fmul two c.tau) c.t) den
    (∀ x ∈ [c.kI, c.kD, c.t, c.tau, c.intLimMin, c.intLimMax, c.maxOutput, c.x1Shift, c.x1, c.x2, c.y0, c.y1, c.y2,
      c.kFf, c.adcOffset, m1, m2, ci0, cd0, cd1], x.isFinite = true) →
    flt (F32.ofBits 0) c.x1 = true → flt c.x1 c.x2 = true → fle c.intLimMin c.intLimMax = true →
    fle (F32.ofBits 0) c.maxOutput = true → fle c.maxOutput (F32.ofBits 0x477FFF00) = true →
    flt (F32.ofBits 0) c.t = true → fle (F32.ofBits 0) c.tau = true →
    c.leftCutoff.toNat + c.rightCutoff.toNat < c.totalIterations.toNat →
    c.totalIterations.toNat ≤ s.params.maxSamplesPred.val + 1 →
    ∃ t, exec .init s = .next t ∧ s.Returns t ⟨.ok, 0⟩ ∧
      t.initialised = true ∧ t.driveEnabled = true ∧ t.pwmLevel = 0 ∧
      t.events = s.events ++ [.setPwm 0, .enableDrive] ∧ t.speedTable = c.speedTable ∧ t.rampDelay = c.rampDelay ∧
      t.bemf = ⟨c.delayUs, c.totalIterations, c.leftCutoff, c.rightCutoff⟩ ∧
      t.startup = { s.startup with kFf := c.kFf, rampStep := c.rampStep } ∧
      t.meas = { s.meas with adcOffset := c.adcOffset } ∧
      t.pid =
        { s.pid with
          kI := c.kI, kD := c.kD, t := c.t, tau := c.tau, ci0 := ci0, cd0 := cd0, cd1 := cd1
          intLimMin := c.intLimMin, intLimMax := c.intLimMax, maxOutput := c.maxOutput, x1Shift := c.x1Shift
          x1 := c.x1, x2 := c.x2, y0 := c.y0, y1 := c.y1, y2 := c.y2, m1 := m1, m2 := m2 } ∧
      { t with
        initialised := s.initialised, driveEnabled := s.driveEnabled, pwmLevel := s.pwmLevel, events := s.events
        speedTable := s.speedTable, rampDelay := s.rampDelay, bemf := s.bemf, startup := s.startup
        meas := s.meas, pid := s.pid, respC := s.respC, respD := s.respD } = s

/-- R200 (with R105) and R202, the other outcomes of `INIT` on port C: a second one is `DENIED`, one that does not see
the ready flag is `NOT_READY`, and a record of which a conjunct of R202 fails raises `CONFIG_ERROR` (bit 5), returns `FAULT` and
writes nothing else. -/
def Obligations.InitRefusesAndFaults : Prop :=
  ∀ s : State, s.port = .c →
    (s.initialised = true → ∃ t, exec .init s = .next t ∧ s.OnlyAnswers t ⟨.denied, 0⟩) ∧
    (s.initialised = false → s.setup.r = false → ∃ t, exec .init s = .next t ∧ s.OnlyAnswers t ⟨.notReady, 0⟩) ∧
    (s.initialised = false → s.setup.r = true →
      ((∃ x ∈ [s.cv.kI, s.cv.kD, s.cv.t, s.cv.tau, s.cv.intLimMin, s.cv.intLimMax, s.cv.maxOutput, s.cv.x1Shift, s.cv.x1,
          s.cv.x2, s.cv.y0, s.cv.y1, s.cv.y2, s.cv.kFf, s.cv.adcOffset,
          fdiv (fsub s.cv.y1 s.cv.y0) s.cv.x1, fdiv (fsub s.cv.y2 s.cv.y1) (fsub s.cv.x2 s.cv.x1),
          fdiv (fmul s.cv.kI s.cv.t) (F32.ofBits 0x40000000),
          fdiv (fmul (F32.ofBits 0x40000000) s.cv.kD) (fadd (fmul (F32.ofBits 0x40000000) s.cv.tau) s.cv.t),
          fdiv (fsub (fmul (F32.ofBits 0x40000000) s.cv.tau) s.cv.t)
            (fadd (fmul (F32.ofBits 0x40000000) s.cv.tau) s.cv.t)], x.isFinite = false) ∨
        flt (F32.ofBits 0) s.cv.x1 = false ∨ flt s.cv.x1 s.cv.x2 = false ∨
        fle s.cv.intLimMin s.cv.intLimMax = false ∨ fle (F32.ofBits 0) s.cv.maxOutput = false ∨
        fle s.cv.maxOutput (F32.ofBits 0x477FFF00) = false ∨ flt (F32.ofBits 0) s.cv.t = false ∨
        fle (F32.ofBits 0) s.cv.tau = false ∨
        s.cv.totalIterations.toNat ≤ s.cv.leftCutoff.toNat + s.cv.rightCutoff.toNat ∨
        s.params.maxSamplesPred.val + 1 < s.cv.totalIterations.toNat) →
      ∃ t, exec .init s = .next t ∧ s.Returns t ⟨.fault, 0⟩ ∧ t.errorState = s.errorState ||| 0x20 ∧
        { t with errorState := s.errorState, respC := s.respC, respD := s.respD } = s)

/-- R93 over every step but reset: once `INIT` has succeeded, no configuration register and no derived register changes,
and `initialised` stays set. -/
def Obligations.ConfigurationIsFrozenAfterInit : Prop :=
  ∀ s t : State, s.initialised = true → s.inputs.head? ≠ some .reset → step s = .next t →
    t.initialised = true ∧ t.speedTable = s.speedTable ∧ t.bemf = s.bemf ∧ t.rampDelay = s.rampDelay ∧
      t.startup.kFf = s.startup.kFf ∧ t.startup.rampStep = s.startup.rampStep ∧
      t.meas.adcOffset = s.meas.adcOffset ∧
      { t.pid with
        kP := s.pid.kP, e := s.pid.e, ePrev := s.pid.ePrev, iPrev := s.pid.iPrev, dPrev := s.pid.dPrev } = s.pid

/-- R211 with R210: at `setpoint == 0` a tick zeroes the level and the output, clears `seeded` and goes to `Startup`,
whatever the mode; nothing else changes. -/
def Obligations.StopActionAtSetpointZero : Prop :=
  ∀ s : State, s.port = .c → s.initialised = true → s.setpoint = 0 →
    ∃ t, exec .ctrlTick s = .next t ∧ s.Returns t ⟨.ok, 0⟩ ∧ t.mode = .startup ∧ t.pwmLevel = 0 ∧
      t.startup = { s.startup with level := 0, seeded := false } ∧ t.events = s.events ++ [.setPwm 0] ∧
      { t with
        mode := s.mode, pwmLevel := s.pwmLevel, startup := s.startup, events := s.events, respC := s.respC
        respD := s.respD } = s

/-- R210 before `INIT`: `CTRL_TICK`, the word `0x1100`, is `NOT_READY` on port C and changes nothing. -/
def Obligations.CtrlTickBeforeInitIsNotReady : Prop :=
  decode 0x1100 = .ok .ctrlTick ∧ ∀ s : State, s.port = .c → s.initialised = false →
    ∃ t, exec .ctrlTick s = .next t ∧ s.OnlyAnswers t ⟨.notReady, 0⟩

/-- R213, the mode graph over every step: `mode` changes only from `Startup` to `Pid` in a tick with a setpoint whose level
reaches the ceiling, and from `Pid` to `Startup` in a tick at setpoint 0 or by reset. -/
def Obligations.ModeChangesOnlyAlongTheGraph : Prop :=
  ∀ s t : State, step s = .next t → t.mode ≠ s.mode →
    (s.mode = .pid ∧ t.mode = .startup ∧
      (s.inputs.head? = some .reset ∨
        (s.inputs.head? = some (.command .c 0x1100) ∧ s.initialised = true ∧ s.setpoint = 0))) ∨
    (s.mode = .startup ∧ t.mode = .pid ∧ s.inputs.head? = some (.command .c 0x1100) ∧ s.initialised = true ∧
      s.setpoint ≠ 0 ∧
      t.startup.level.toNat = min s.speedTable[s.setpoint].toNat (truncU16 s.pid.maxOutput).toNat)

/-- R220 and R223: `RAMP_TICK`, the word `0x1200`, on port C after `INIT` moves `setpoint` by at most one table step, toward
the table index of the target the control core sees, and returns it; nothing else changes.  Before `INIT` it is
`NOT_READY` and on port D `DENIED`, and nothing changes. -/
def Obligations.RampTickMovesOneStepTowardTheTarget : Prop :=
  decode 0x1200 = .ok .rampTick ∧ ∀ s : State,
    let tgt := if s.target.r.toNat % 128 ≤ 1 then 0 else s.target.r.toNat % 128 - 1
    (s.port = .c → s.initialised = true →
      ∃ t, exec .rampTick s = .next t ∧ s.Returns t ⟨.ok, BitVec.ofNat 32 t.setpoint.val⟩ ∧
        (s.setpoint.val < tgt → t.setpoint.val = s.setpoint.val + 1) ∧
        (tgt < s.setpoint.val → t.setpoint.val + 1 = s.setpoint.val) ∧
        (s.setpoint.val = tgt → t.setpoint = s.setpoint) ∧
        { t with setpoint := s.setpoint, respC := s.respC, respD := s.respD } = s) ∧
    (s.port = .c → s.initialised = false →
      ∃ t, exec .rampTick s = .next t ∧ s.OnlyAnswers t ⟨.notReady, 0⟩) ∧
    (s.port = .d → ∃ t, exec .rampTick s = .next t ∧ s.OnlyAnswers t ⟨.denied, 0⟩)

/-- R223, how long a ramp takes: as many `RAMP_TICK` commands as the distance is long, or more, bring `setpoint` to the
target's index and leave it there, and fewer leave it that much short, from any state after `INIT`.  (The list of
inputs is the model's, log entry 2.) -/
def Obligations.RampArrivesAfterItsDistance : Prop :=
  ∀ (n : Nat) (s : State) (rest : List Input), s.initialised = true →
    s.inputs = List.replicate n (.command .c 0x1200) ++ rest →
    let tgt := if s.target.r.toNat % 128 ≤ 1 then 0 else s.target.r.toNat % 128 - 1
    ∃ t, Host.Core.run core n s = .next t ∧ t.inputs = rest ∧ t.target = s.target ∧
      (t.setpoint.val : Int) =
        if s.setpoint.val ≤ tgt then (min (s.setpoint.val + n) tgt : Int) else (max (s.setpoint.val - n : Int) tgt)

/-! ### Reading the register file -/

/-- R250 with R30 and R31, the register map: on port C every register that has a number reads as itself, zero-extended, an
`f32` as its bit pattern; the read changes nothing. -/
def Obligations.RdStateReadsEveryRegister : Prop :=
  ∀ s : State, s.port = .c →
    let reads (xx : U8) (v : U32) : Prop := ∃ t, exec (.rdState xx) s = .next t ∧ s.OnlyAnswers t ⟨.ok, v⟩
    (∀ k : Fin 127, reads (BitVec.ofNat 8 k.val) (s.speedTable[k].setWidth 32)) ∧
    (∀ k : Fin 16, reads (BitVec.ofNat 8 (0x80 + k.val)) (s.startup.history[k].setWidth 32)) ∧
    (∀ row ∈ ([(0x91, s.feedForward), (0x96, s.startup.kFf), (0xA0, s.pid.kP), (0xA1, s.pid.kI), (0xA2, s.pid.kD),
        (0xA3, s.pid.t), (0xA4, s.pid.tau), (0xA5, s.pid.ci0), (0xA6, s.pid.cd0), (0xA7, s.pid.cd1),
        (0xA8, s.pid.intLimMin), (0xA9, s.pid.intLimMax), (0xAA, s.pid.maxOutput), (0xAB, s.pid.e),
        (0xAC, s.pid.ePrev), (0xAD, s.pid.iPrev), (0xAE, s.pid.dPrev), (0xB0, s.pid.x1Shift), (0xB1, s.pid.x1),
        (0xB2, s.pid.x2), (0xB3, s.pid.y0), (0xB4, s.pid.y1), (0xB5, s.pid.y2), (0xB6, s.pid.m1), (0xB7, s.pid.m2),
        (0xC0, s.meas.raw), (0xC1, s.meas.rawPrev), (0xC2, s.meas.corrected), (0xC3, s.meas.adcOffset)] :
          List (U8 × F32)), reads row.1 row.2.bits) ∧
    (∀ row ∈ ([(0x90, if s.mode = .pid then 1 else 0), (0x92, s.setpoint.val), (0x93, s.startup.level.toNat),
        (0x94, s.startup.histIdx.val), (0x95, s.startup.histCount.val), (0x97, s.startup.rampStep.toNat),
        (0x98, s.startup.seeded.toNat), (0x99, s.pwmLevel.toNat), (0x9A, s.driveEnabled.toNat),
        (0x9B, s.initialised.toNat), (0xC4, s.bemf.delayUs.toNat), (0xC5, s.bemf.totalIterations.toNat),
        (0xC6, s.bemf.leftCutoff.toNat), (0xC7, s.bemf.rightCutoff.toNat), (0xC8, s.rampDelay.toNat),
        (0xD0, s.target.r.toNat), (0xD1, s.prev.r.toNat), (0xD2, s.setup.r.toNat), (0xD3, s.fse.w.toNat),
        (0xD4, s.errorState.toNat)] : List (U8 × Nat)), reads row.1 (BitVec.ofNat 32 row.2))

/-- R250 and R105 for the reserved numbers: `RD_STATE` of one is `ILLEGAL` with data 0 and changes nothing, on either port
(the check of the operand comes before that of the port). -/
def Obligations.RdStateOfAReservedNumberIsIllegal : Prop :=
  ∀ (xx : U8) (s : State),
    (xx = 0x7F ∨ (0x9C ≤ xx.toNat ∧ xx.toNat ≤ 0x9F) ∨ xx = 0xAF ∨ (0xB8 ≤ xx.toNat ∧ xx.toNat ≤ 0xBF) ∨
      (0xC9 ≤ xx.toNat ∧ xx.toNat ≤ 0xCF) ∨ 0xD5 ≤ xx.toNat) →
    ∃ t, exec (.rdState xx) s = .next t ∧ s.OnlyAnswers t ⟨.illegal, 0⟩

/-! ### Reset and the invariant -/

/-- R62 and R301: after reset every register that has a number reads 0 (an `f32` as `+0.0`), the decode side's copies are
0, neither port has returned a response and the event history is empty.  (R62 marks the values as the spec's own
choice; that `exec` finds port C and no responses there is the model's, log entry 3.) -/
def Obligations.ResetLeavesEveryRegisterZero : Prop :=
  (∀ xx : U8, reservedIndex xx = false → ∃ t, exec (.rdState xx) State.reset = .next t ∧
      State.OnlyAnswers State.reset t ⟨.ok, 0⟩) ∧
    State.reset.target.w = 0 ∧ State.reset.prev.w = 0 ∧ State.reset.setup.w = false ∧ State.reset.fse.r = false ∧
    State.reset.mode = .startup ∧ State.reset.events = [] ∧ State.reset.respC = none ∧ State.reset.respD = none

/-- R300 to R302: the event `RESET` in any state gives the reset state; nothing of the CORE survives.  (What stays is the
surroundings, and the port field takes its reset value: the model's choice, log entries 2 to 6 and 11.) -/
def Obligations.ResetEventRestoresTheResetState : Prop :=
  ∀ (s : State) (rest : List Input), s.inputs = .reset :: rest →
    step s = .next
      { State.reset with
        inputs := rest, cv := s.cv, adcAnswers := s.adcAnswers, adcDraws := s.adcDraws, params := s.params }

/-- The invariant holds at reset (R60, R62). -/
def Obligations.InvariantHoldsAtReset : Prop :=
  State.reset.Inv

/-- Every step keeps the invariant, from every state that has it (R43, R44, R48, R60, R186, R192, R281, R282, R303). -/
def Obligations.EveryStepKeepsTheInvariant : Prop :=
  ∀ s t : State, s.Inv → step s = .next t → t.Inv

/-- R74, R281 to R283, the event history over every step but reset: it only grows at its end, and only `INIT`, `CTRL_TICK`
and `MEASURE` on port C make it grow. -/
def Obligations.EventsAreOnlyAppended : Prop :=
  ∀ s t : State, step s = .next t → s.inputs.head? ≠ some .reset →
    ∃ es, t.events = s.events ++ es ∧
      (es ≠ [] → ∃ w, s.inputs.head? = some (.command .c w) ∧
        (decode w = .ok .init ∨ decode w = .ok .ctrlTick ∨ ∃ kk, decode w = .ok (.measure kk)))

/-! ### Arithmetic -/

/-- R19, `fadd` of finite operands: the result is finite exactly when the exact sum is below half a unit past the largest
finite magnitude, and then no finite value is nearer to the exact sum, and of two equally near ones the one with an
even last bit is chosen.  Values are in units of `2^-149`.  When a sum overflows is taken from IEEE 754 (log entry 9). -/
def Obligations.FaddRoundsToNearestEven : Prop :=
  ∀ a b : F32, a.isFinite = true → b.isFinite = true →
    let exact : Int := a.value + b.value
    ((fadd a b).isFinite = true ↔ exact.natAbs < (2 ^ 25 - 1) * 2 ^ 252) ∧
      ((fadd a b).isFinite = true → ∀ y : F32, y.isFinite = true →
        ((fadd a b).value - exact).natAbs ≤ (y.value - exact).natAbs ∧
          (((fadd a b).value - exact).natAbs = (y.value - exact).natAbs → y.value ≠ (fadd a b).value →
            (fadd a b).bits.toNat % 2 = 0))

/-- R19, `fmul` and `fdiv` of finite operands (a divisor that is not zero): the exact product or quotient rounded to
nearest, ties to even.  When a result overflows is taken from IEEE 754 (log entry 9). -/
def Obligations.FmulAndFdivRoundToNearest : Prop :=
  ∀ a b : F32, a.isFinite = true → b.isFinite = true →
    (fmul a b).RoundsTo (a.value * b.value) (2 ^ 149) ∧
      (b.value ≠ 0 → (fdiv a b).RoundsTo (a.value * b.value.sign * 2 ^ 149) b.value.natAbs)

/-- R19 on conversion and comparison: `i2f` rounds its operand to nearest, ties to even, and is exact below `2^24`; every
comparison with a NaN is false; on finite values the comparisons are those of the values, so `-0.0 == +0.0`; `-inf` is
below and `+inf` above every other value.  The overflow of `i2f` and the order of the infinities are taken from
IEEE 754 (log entry 9). -/
def Obligations.ConversionAndComparisons : Prop :=
  (∀ n : Nat, (i2f n).RoundsTo (n * 2 ^ 149) 1) ∧
    (∀ n, n < 2 ^ 24 → (i2f n).isFinite = true ∧ (i2f n).value = (n : Int) * 2 ^ 149) ∧
    (∀ a b : F32, a.isNaN = true ∨ b.isNaN = true → flt a b = false ∧ fle a b = false ∧ feq a b = false) ∧
    (∀ a b : F32, a.isFinite = true → b.isFinite = true →
      (flt a b = true ↔ a.value < b.value) ∧ (fle a b = true ↔ a.value ≤ b.value) ∧
        (feq a b = true ↔ a.value = b.value)) ∧
    (∀ x : F32, x.isNaN = false →
      let low := F32.ofBits 0xFF800000
      let high := F32.ofBits 0x7F800000
      (flt low x = true ↔ x ≠ low) ∧ fle low x = true ∧ flt x low = false ∧ (fle x low = true ↔ x = low) ∧
        (feq low x = true ↔ x = low) ∧ (feq x low = true ↔ x = low) ∧
        (flt x high = true ↔ x ≠ high) ∧ fle x high = true ∧ flt high x = false ∧ (fle high x = true ↔ x = high) ∧
        (feq high x = true ↔ x = high) ∧ (feq x high = true ↔ x = high)) ∧
    feq (F32.ofBits 0x80000000) (F32.ofBits 0) = true

/-- R20 and R21: `clamp` returns the bound it passes or `x` unchanged, in `[lo, hi]` for `lo <= hi` and `x` not NaN, and a
NaN passes through; `trunc_u16` on its domain discards the fraction. -/
def Obligations.ClampAndTruncation : Prop :=
  (∀ x lo hi : F32,
    (flt x lo = true → clamp x lo hi = lo) ∧ (flt x lo = false → flt hi x = true → clamp x lo hi = hi) ∧
      (flt x lo = false → flt hi x = false → clamp x lo hi = x) ∧ (x.isNaN = true → clamp x lo hi = x) ∧
      (x.isNaN = false → fle lo hi = true → fle lo (clamp x lo hi) = true ∧ fle (clamp x lo hi) hi = true)) ∧
    ∀ x : F32, fle (F32.ofBits 0) x = true → fle x (F32.ofBits 0x477FFF00) = true →
      ((truncU16 x).toNat : Int) * 2 ^ 149 ≤ x.value ∧ x.value < ((truncU16 x).toNat + 1 : Int) * 2 ^ 149

/-! ### Pseudo-commands -/

/-- R122: `SET_ERROR_MASK m` is `SET_ERROR b` for every set bit of `m` in ascending order, and running its expansion ORs
`m` into `error_state`, from either port; `WR_TARGET_DS d, s` is `WR_TARGET` of the byte `(d << 7) | s`. -/
def Obligations.PseudoCommandsExpand : Prop :=
  (∀ m : U32,
    (∀ i ∈ setErrorMask m, ∃ b, i = .setError b ∧ m.getLsbD b.toNat = true) ∧
      (∀ b : BitVec 5, m.getLsbD b.toNat = true → .setError b ∈ setErrorMask m) ∧
      (setErrorMask m).Pairwise fun i j => ∃ a b, i = .setError a ∧ j = .setError b ∧ a.toNat < b.toNat) ∧
    (∀ (m : U32) (p : Port) (s : State) (rest : List Input),
      s.inputs = (setErrorMask m).map (fun i => .command p (encode i)) ++ rest →
      ∃ t, Host.Core.run core (setErrorMask m).length s = .next t ∧ t.errorState = s.errorState ||| m ∧
        t.inputs = rest) ∧
    ∀ (d : Direction) (v : BitVec 7), ∃ ss : U8, wrTargetDs d v = .wrTarget ss ∧
      ss.toNat = 128 * (if d = .forward then 1 else 0) + v.toNat

/-! ### Subtraction -/

/-- R19, `fsub` of finite operands: the exact difference rounded to nearest, ties to even.  When a difference overflows is
taken from IEEE 754 (log entry 9). -/
def Obligations.FsubRoundsToNearestEven : Prop :=
  ∀ a b : F32, a.isFinite = true → b.isFinite = true → (fsub a b).RoundsTo (a.value - b.value) 1
end

