-- ==== Sys2Proof/Laws/Control.lean ====
section
/-! SUPPORT. One lemma per field for the stop action, the handoff, the commit of a PID tick and a successful `INIT`:
what each leaves and what it writes. -/

namespace Sys2Proof.Machine

/-! ### stopBody: the stop action (R211) -/

@[simp] theorem State.stopBody_speedTable (s : State) : (s.stopBody).speedTable = s.speedTable := rfl
@[simp] theorem State.stopBody_mode (s : State) : (s.stopBody).mode = .startup := rfl
@[simp] theorem State.stopBody_feedForward (s : State) : (s.stopBody).feedForward = s.feedForward := rfl
@[simp] theorem State.stopBody_setpoint (s : State) : (s.stopBody).setpoint = s.setpoint := rfl
@[simp] theorem State.stopBody_startup (s : State) :
    (s.stopBody).startup = { s.startup with level := 0, seeded := false } := rfl
@[simp] theorem State.stopBody_pid (s : State) : (s.stopBody).pid = s.pid := rfl
@[simp] theorem State.stopBody_meas (s : State) : (s.stopBody).meas = s.meas := rfl
@[simp] theorem State.stopBody_bemf (s : State) : (s.stopBody).bemf = s.bemf := rfl
@[simp] theorem State.stopBody_rampDelay (s : State) : (s.stopBody).rampDelay = s.rampDelay := rfl
@[simp] theorem State.stopBody_pwmLevel (s : State) : (s.stopBody).pwmLevel = 0 := rfl
@[simp] theorem State.stopBody_driveEnabled (s : State) : (s.stopBody).driveEnabled = s.driveEnabled := rfl
@[simp] theorem State.stopBody_initialised (s : State) : (s.stopBody).initialised = s.initialised := rfl
@[simp] theorem State.stopBody_target (s : State) : (s.stopBody).target = s.target := rfl
@[simp] theorem State.stopBody_prev (s : State) : (s.stopBody).prev = s.prev := rfl
@[simp] theorem State.stopBody_setup (s : State) : (s.stopBody).setup = s.setup := rfl
@[simp] theorem State.stopBody_fse (s : State) : (s.stopBody).fse = s.fse := rfl
@[simp] theorem State.stopBody_errorState (s : State) : (s.stopBody).errorState = s.errorState := rfl
@[simp] theorem State.stopBody_events (s : State) : (s.stopBody).events = s.events ++ [.setPwm 0] := rfl
@[simp] theorem State.stopBody_respC (s : State) : (s.stopBody).respC = s.respC := rfl
@[simp] theorem State.stopBody_respD (s : State) : (s.stopBody).respD = s.respD := rfl
@[simp] theorem State.stopBody_port (s : State) : (s.stopBody).port = s.port := rfl
@[simp] theorem State.stopBody_inputs (s : State) : (s.stopBody).inputs = s.inputs := rfl
@[simp] theorem State.stopBody_cv (s : State) : (s.stopBody).cv = s.cv := rfl
@[simp] theorem State.stopBody_adcAnswers (s : State) : (s.stopBody).adcAnswers = s.adcAnswers := rfl
@[simp] theorem State.stopBody_adcDraws (s : State) : (s.stopBody).adcDraws = s.adcDraws := rfl
@[simp] theorem State.stopBody_params (s : State) : (s.stopBody).params = s.params := rfl

/-! ### pidWrite: the register writes of a PID tick (R195) -/

@[simp] theorem State.pidWrite_speedTable (s : State) (m corrected kp e i d : F32) (level : U16) :
    (s.pidWrite m corrected kp e i d level).speedTable = s.speedTable := rfl
@[simp] theorem State.pidWrite_mode (s : State) (m corrected kp e i d : F32) (level : U16) :
    (s.pidWrite m corrected kp e i d level).mode = s.mode := rfl
@[simp] theorem State.pidWrite_feedForward (s : State) (m corrected kp e i d : F32) (level : U16) :
    (s.pidWrite m corrected kp e i d level).feedForward = s.feedForward := rfl
@[simp] theorem State.pidWrite_setpoint (s : State) (m corrected kp e i d : F32) (level : U16) :
    (s.pidWrite m corrected kp e i d level).setpoint = s.setpoint := rfl
@[simp] theorem State.pidWrite_startup (s : State) (m corrected kp e i d : F32) (level : U16) :
    (s.pidWrite m corrected kp e i d level).startup = s.startup := rfl
@[simp] theorem State.pidWrite_pid (s : State) (m corrected kp e i d : F32) (level : U16) :
    (s.pidWrite m corrected kp e i d level).pid = { s.pid with e := e, kP := kp, ePrev := e, iPrev := i, dPrev := d } := rfl
@[simp] theorem State.pidWrite_meas (s : State) (m corrected kp e i d : F32) (level : U16) :
    (s.pidWrite m corrected kp e i d level).meas = { s.meas with rawPrev := s.meas.raw, raw := m, corrected := corrected } := rfl
@[simp] theorem State.pidWrite_bemf (s : State) (m corrected kp e i d : F32) (level : U16) :
    (s.pidWrite m corrected kp e i d level).bemf = s.bemf := rfl
@[simp] theorem State.pidWrite_rampDelay (s : State) (m corrected kp e i d : F32) (level : U16) :
    (s.pidWrite m corrected kp e i d level).rampDelay = s.rampDelay := rfl
@[simp] theorem State.pidWrite_pwmLevel (s : State) (m corrected kp e i d : F32) (level : U16) :
    (s.pidWrite m corrected kp e i d level).pwmLevel = level := rfl
@[simp] theorem State.pidWrite_driveEnabled (s : State) (m corrected kp e i d : F32) (level : U16) :
    (s.pidWrite m corrected kp e i d level).driveEnabled = s.driveEnabled := rfl
@[simp] theorem State.pidWrite_initialised (s : State) (m corrected kp e i d : F32) (level : U16) :
    (s.pidWrite m corrected kp e i d level).initialised = s.initialised := rfl
@[simp] theorem State.pidWrite_target (s : State) (m corrected kp e i d : F32) (level : U16) :
    (s.pidWrite m corrected kp e i d level).target = s.target := rfl
@[simp] theorem State.pidWrite_prev (s : State) (m corrected kp e i d : F32) (level : U16) :
    (s.pidWrite m corrected kp e i d level).prev = s.prev := rfl
@[simp] theorem State.pidWrite_setup (s : State) (m corrected kp e i d : F32) (level : U16) :
    (s.pidWrite m corrected kp e i d level).setup = s.setup := rfl
@[simp] theorem State.pidWrite_fse (s : State) (m corrected kp e i d : F32) (level : U16) :
    (s.pidWrite m corrected kp e i d level).fse = s.fse := rfl
@[simp] theorem State.pidWrite_errorState (s : State) (m corrected kp e i d : F32) (level : U16) :
    (s.pidWrite m corrected kp e i d level).errorState = s.errorState := rfl
@[simp] theorem State.pidWrite_events (s : State) (m corrected kp e i d : F32) (level : U16) :
    (s.pidWrite m corrected kp e i d level).events = s.events ++ [.setPwm level] := rfl
@[simp] theorem State.pidWrite_respC (s : State) (m corrected kp e i d : F32) (level : U16) :
    (s.pidWrite m corrected kp e i d level).respC = s.respC := rfl
@[simp] theorem State.pidWrite_respD (s : State) (m corrected kp e i d : F32) (level : U16) :
    (s.pidWrite m corrected kp e i d level).respD = s.respD := rfl
@[simp] theorem State.pidWrite_port (s : State) (m corrected kp e i d : F32) (level : U16) :
    (s.pidWrite m corrected kp e i d level).port = s.port := rfl
@[simp] theorem State.pidWrite_inputs (s : State) (m corrected kp e i d : F32) (level : U16) :
    (s.pidWrite m corrected kp e i d level).inputs = s.inputs := rfl
@[simp] theorem State.pidWrite_cv (s : State) (m corrected kp e i d : F32) (level : U16) :
    (s.pidWrite m corrected kp e i d level).cv = s.cv := rfl
@[simp] theorem State.pidWrite_adcAnswers (s : State) (m corrected kp e i d : F32) (level : U16) :
    (s.pidWrite m corrected kp e i d level).adcAnswers = s.adcAnswers := rfl
@[simp] theorem State.pidWrite_adcDraws (s : State) (m corrected kp e i d : F32) (level : U16) :
    (s.pidWrite m corrected kp e i d level).adcDraws = s.adcDraws := rfl
@[simp] theorem State.pidWrite_params (s : State) (m corrected kp e i d : F32) (level : U16) :
    (s.pidWrite m corrected kp e i d level).params = s.params := rfl

/-! ### pidCommit: the commit of a PID tick (R195) -/

@[simp] theorem State.pidCommit_speedTable (s : State) (m : F32) :
    (s.pidCommit m).speedTable = s.speedTable := s.pidWrite_speedTable ..
@[simp] theorem State.pidCommit_mode (s : State) (m : F32) : (s.pidCommit m).mode = s.mode := s.pidWrite_mode ..
@[simp] theorem State.pidCommit_feedForward (s : State) (m : F32) :
    (s.pidCommit m).feedForward = s.feedForward := s.pidWrite_feedForward ..
@[simp] theorem State.pidCommit_setpoint (s : State) (m : F32) :
    (s.pidCommit m).setpoint = s.setpoint := s.pidWrite_setpoint ..
@[simp] theorem State.pidCommit_startup (s : State) (m : F32) :
    (s.pidCommit m).startup = s.startup := s.pidWrite_startup ..
@[simp] theorem State.pidCommit_pid (s : State) (m : F32) :
    (s.pidCommit m).pid =
      { s.pid with
        e := s.pidError m, kP := s.pid.getKp s.setpoint.val
        ePrev := s.pidError m, iPrev := s.pid.integral (s.pidError m), dPrev := s.pid.derivative (s.pidError m) } := s.pidWrite_pid ..
@[simp] theorem State.pidCommit_meas (s : State) (m : F32) :
    (s.pidCommit m).meas = { s.meas with rawPrev := s.meas.raw, raw := m, corrected := fsub m s.meas.adcOffset } := s.pidWrite_meas ..
@[simp] theorem State.pidCommit_bemf (s : State) (m : F32) : (s.pidCommit m).bemf = s.bemf := s.pidWrite_bemf ..
@[simp] theorem State.pidCommit_rampDelay (s : State) (m : F32) :
    (s.pidCommit m).rampDelay = s.rampDelay := s.pidWrite_rampDelay ..
@[simp] theorem State.pidCommit_pwmLevel (s : State) (m : F32) :
    (s.pidCommit m).pwmLevel = truncU16 (clamp (s.pidSum m) F32.zero s.pid.maxOutput) := s.pidWrite_pwmLevel ..
@[simp] theorem State.pidCommit_driveEnabled (s : State) (m : F32) :
    (s.pidCommit m).driveEnabled = s.driveEnabled := s.pidWrite_driveEnabled ..
@[simp] theorem State.pidCommit_initialised (s : State) (m : F32) :
    (s.pidCommit m).initialised = s.initialised := s.pidWrite_initialised ..
@[simp] theorem State.pidCommit_target (s : State) (m : F32) :
    (s.pidCommit m).target = s.target := s.pidWrite_target ..
@[simp] theorem State.pidCommit_prev (s : State) (m : F32) : (s.pidCommit m).prev = s.prev := s.pidWrite_prev ..
@[simp] theorem State.pidCommit_setup (s : State) (m : F32) : (s.pidCommit m).setup = s.setup := s.pidWrite_setup ..
@[simp] theorem State.pidCommit_fse (s : State) (m : F32) : (s.pidCommit m).fse = s.fse := s.pidWrite_fse ..
@[simp] theorem State.pidCommit_errorState (s : State) (m : F32) :
    (s.pidCommit m).errorState = s.errorState := s.pidWrite_errorState ..
@[simp] theorem State.pidCommit_events (s : State) (m : F32) :
    (s.pidCommit m).events = s.events ++ [.setPwm (truncU16 (clamp (s.pidSum m) F32.zero s.pid.maxOutput))] := s.pidWrite_events ..
@[simp] theorem State.pidCommit_respC (s : State) (m : F32) : (s.pidCommit m).respC = s.respC := s.pidWrite_respC ..
@[simp] theorem State.pidCommit_respD (s : State) (m : F32) : (s.pidCommit m).respD = s.respD := s.pidWrite_respD ..
@[simp] theorem State.pidCommit_port (s : State) (m : F32) : (s.pidCommit m).port = s.port := s.pidWrite_port ..
@[simp] theorem State.pidCommit_inputs (s : State) (m : F32) :
    (s.pidCommit m).inputs = s.inputs := s.pidWrite_inputs ..
@[simp] theorem State.pidCommit_cv (s : State) (m : F32) : (s.pidCommit m).cv = s.cv := s.pidWrite_cv ..
@[simp] theorem State.pidCommit_adcAnswers (s : State) (m : F32) :
    (s.pidCommit m).adcAnswers = s.adcAnswers := s.pidWrite_adcAnswers ..
@[simp] theorem State.pidCommit_adcDraws (s : State) (m : F32) :
    (s.pidCommit m).adcDraws = s.adcDraws := s.pidWrite_adcDraws ..
@[simp] theorem State.pidCommit_params (s : State) (m : F32) :
    (s.pidCommit m).params = s.params := s.pidWrite_params ..

/-! ### initialise: a successful `INIT` (R205) -/

@[simp] theorem State.initialise_speedTable (s : State) (c : CvConfig) :
    (s.initialise c).speedTable = c.speedTable := rfl
@[simp] theorem State.initialise_mode (s : State) (c : CvConfig) : (s.initialise c).mode = s.mode := rfl
@[simp] theorem State.initialise_feedForward (s : State) (c : CvConfig) :
    (s.initialise c).feedForward = s.feedForward := rfl
@[simp] theorem State.initialise_setpoint (s : State) (c : CvConfig) : (s.initialise c).setpoint = s.setpoint := rfl
@[simp] theorem State.initialise_startup (s : State) (c : CvConfig) :
    (s.initialise c).startup = { s.startup with kFf := c.kFf, rampStep := c.rampStep } := rfl
@[simp] theorem State.initialise_pid (s : State) (c : CvConfig) :
    (s.initialise c).pid =
      { s.pid with
        kI := c.kI, kD := c.kD, t := c.t, tau := c.tau
        intLimMin := c.intLimMin, intLimMax := c.intLimMax, maxOutput := c.maxOutput
        x1Shift := c.x1Shift, x1 := c.x1, x2 := c.x2, y0 := c.y0, y1 := c.y1, y2 := c.y2
        m1 := c.m1, m2 := c.m2, ci0 := c.ci0, cd0 := c.cd0, cd1 := c.cd1 } := rfl
@[simp] theorem State.initialise_meas (s : State) (c : CvConfig) :
    (s.initialise c).meas = { s.meas with adcOffset := c.adcOffset } := rfl
@[simp] theorem State.initialise_bemf (s : State) (c : CvConfig) :
    (s.initialise c).bemf =
      { delayUs := c.delayUs, totalIterations := c.totalIterations, leftCutoff := c.leftCutoff,
        rightCutoff := c.rightCutoff } := rfl
@[simp] theorem State.initialise_rampDelay (s : State) (c : CvConfig) :
    (s.initialise c).rampDelay = c.rampDelay := rfl
@[simp] theorem State.initialise_pwmLevel (s : State) (c : CvConfig) : (s.initialise c).pwmLevel = 0 := rfl
@[simp] theorem State.initialise_driveEnabled (s : State) (c : CvConfig) : (s.initialise c).driveEnabled = true := rfl
@[simp] theorem State.initialise_initialised (s : State) (c : CvConfig) : (s.initialise c).initialised = true := rfl
@[simp] theorem State.initialise_target (s : State) (c : CvConfig) : (s.initialise c).target = s.target := rfl
@[simp] theorem State.initialise_prev (s : State) (c : CvConfig) : (s.initialise c).prev = s.prev := rfl
@[simp] theorem State.initialise_setup (s : State) (c : CvConfig) : (s.initialise c).setup = s.setup := rfl
@[simp] theorem State.initialise_fse (s : State) (c : CvConfig) : (s.initialise c).fse = s.fse := rfl
@[simp] theorem State.initialise_errorState (s : State) (c : CvConfig) :
    (s.initialise c).errorState = s.errorState := rfl
@[simp] theorem State.initialise_events (s : State) (c : CvConfig) :
    (s.initialise c).events = s.events ++ [.setPwm 0] ++ [.enableDrive] := rfl
@[simp] theorem State.initialise_respC (s : State) (c : CvConfig) : (s.initialise c).respC = s.respC := rfl
@[simp] theorem State.initialise_respD (s : State) (c : CvConfig) : (s.initialise c).respD = s.respD := rfl
@[simp] theorem State.initialise_port (s : State) (c : CvConfig) : (s.initialise c).port = s.port := rfl
@[simp] theorem State.initialise_inputs (s : State) (c : CvConfig) : (s.initialise c).inputs = s.inputs := rfl
@[simp] theorem State.initialise_cv (s : State) (c : CvConfig) : (s.initialise c).cv = s.cv := rfl
@[simp] theorem State.initialise_adcAnswers (s : State) (c : CvConfig) :
    (s.initialise c).adcAnswers = s.adcAnswers := rfl
@[simp] theorem State.initialise_adcDraws (s : State) (c : CvConfig) : (s.initialise c).adcDraws = s.adcDraws := rfl
@[simp] theorem State.initialise_params (s : State) (c : CvConfig) : (s.initialise c).params = s.params := rfl

/-! ### handoff: the handoff (R168) -/

@[simp] theorem State.handoff_speedTable (s : State) : (s.handoff).speedTable = s.speedTable := rfl
@[simp] theorem State.handoff_mode (s : State) : (s.handoff).mode = .pid := rfl
@[simp] theorem State.handoff_feedForward (s : State) :
    (s.handoff).feedForward = fmul s.startup.kFf (s.startup.push s.startup.level).average := rfl
@[simp] theorem State.handoff_setpoint (s : State) : (s.handoff).setpoint = s.setpoint := rfl
@[simp] theorem State.handoff_startup (s : State) : (s.handoff).startup = s.startup.push s.startup.level := rfl
@[simp] theorem State.handoff_pid (s : State) :
    (s.handoff).pid = { s.pid with ePrev := F32.zero, iPrev := F32.zero, dPrev := F32.zero } := rfl
@[simp] theorem State.handoff_meas (s : State) : (s.handoff).meas = s.meas := rfl
@[simp] theorem State.handoff_bemf (s : State) : (s.handoff).bemf = s.bemf := rfl
@[simp] theorem State.handoff_rampDelay (s : State) : (s.handoff).rampDelay = s.rampDelay := rfl
@[simp] theorem State.handoff_pwmLevel (s : State) : (s.handoff).pwmLevel = s.pwmLevel := rfl
@[simp] theorem State.handoff_driveEnabled (s : State) : (s.handoff).driveEnabled = s.driveEnabled := rfl
@[simp] theorem State.handoff_initialised (s : State) : (s.handoff).initialised = s.initialised := rfl
@[simp] theorem State.handoff_target (s : State) : (s.handoff).target = s.target := rfl
@[simp] theorem State.handoff_prev (s : State) : (s.handoff).prev = s.prev := rfl
@[simp] theorem State.handoff_setup (s : State) : (s.handoff).setup = s.setup := rfl
@[simp] theorem State.handoff_fse (s : State) : (s.handoff).fse = s.fse := rfl
@[simp] theorem State.handoff_errorState (s : State) : (s.handoff).errorState = s.errorState := rfl
@[simp] theorem State.handoff_events (s : State) : (s.handoff).events = s.events := rfl
@[simp] theorem State.handoff_respC (s : State) : (s.handoff).respC = s.respC := rfl
@[simp] theorem State.handoff_respD (s : State) : (s.handoff).respD = s.respD := rfl
@[simp] theorem State.handoff_port (s : State) : (s.handoff).port = s.port := rfl
@[simp] theorem State.handoff_inputs (s : State) : (s.handoff).inputs = s.inputs := rfl
@[simp] theorem State.handoff_cv (s : State) : (s.handoff).cv = s.cv := rfl
@[simp] theorem State.handoff_adcAnswers (s : State) : (s.handoff).adcAnswers = s.adcAnswers := rfl
@[simp] theorem State.handoff_adcDraws (s : State) : (s.handoff).adcDraws = s.adcDraws := rfl
@[simp] theorem State.handoff_params (s : State) : (s.handoff).params = s.params := rfl

end Sys2Proof.Machine
end

