-- ==== Sys2Proof/Laws/Float.lean ====
section
/-! SUPPORT. Binary32: the fields and the bits, NaN propagation, the order, `clamp`, `trunc_u16`. -/

namespace Sys2Proof

/-! ### Fields and bits -/

theorem F32.frac_lt (x : F32) : x.frac < 2 ^ 23 := by
  have := x.fracLow.isLt
  unfold F32.frac; split <;> omega

theorem F32.mag_lt (x : F32) : x.mag < 2 ^ 31 := by
  have := x.frac_lt; have := x.exp.isLt
  unfold F32.mag; omega

theorem F32.frac_ofMag (neg : Bool) (m : Nat) : (F32.ofMag neg m).frac = m % 2 ^ 23 := by
  simp only [F32.frac, F32.ofMag, BitVec.toNat_ofNat, beq_iff_eq]
  split <;> omega

theorem F32.mag_ofMag (neg : Bool) {m : Nat} (h : m < 2 ^ 31) : (F32.ofMag neg m).mag = m := by
  simp only [F32.mag, F32.frac_ofMag]
  simp only [F32.ofMag, BitVec.toNat_ofNat]
  omega

@[simp] theorem F32.neg_ofMag (neg : Bool) (m : Nat) : (F32.ofMag neg m).neg = neg := rfl

theorem F32.exp_eq (x : F32) : x.exp = BitVec.ofNat 8 (x.mag / 2 ^ 23) := by
  have := x.frac_lt
  apply BitVec.eq_of_toNat_eq
  have := x.exp.isLt
  simp only [F32.mag, BitVec.toNat_ofNat]
  omega

/-- A value is its sign and its magnitude bits. -/
theorem F32.ofMag_mag (x : F32) : F32.ofMag x.neg x.mag = x := by
  have hf := x.frac_lt
  have hl := x.fracLow.isLt
  have he := x.exp_eq
  cases x with
  | mk neg exp top low =>
    simp only [F32.ofMag, F32.mk.injEq, true_and]
    refine ⟨he.symm, ?_, ?_⟩
    · simp only [F32.mag, F32.frac] at *
      cases top <;> simp <;> omega
    · apply BitVec.eq_of_toNat_eq
      simp only [F32.mag, F32.frac, BitVec.toNat_ofNat] at *
      split <;> omega

theorem F32.ext_mag {x y : F32} (hn : x.neg = y.neg) (hm : x.mag = y.mag) : x = y := by
  rw [← x.ofMag_mag, ← y.ofMag_mag, hn, hm]

@[simp] theorem F32.ofBits_bits (x : F32) : F32.ofBits x.bits = x := by
  have hm := x.mag_lt
  have hb : x.bits.toNat = (if x.neg then 2 ^ 31 else 0) + x.mag := by
    simp only [F32.bits, BitVec.toNat_ofNat]; split <;> omega
  unfold F32.ofBits
  rw [hb]
  have h1 : decide (2 ^ 31 ≤ (if x.neg then 2 ^ 31 else 0) + x.mag) = x.neg := by
    cases x.neg
    · simp; omega
    · simp
  have h2 : ((if x.neg then 2 ^ 31 else 0) + x.mag) % 2 ^ 31 = x.mag := by
    cases x.neg <;> simp <;> omega
  rw [h1, h2, x.ofMag_mag]

@[simp] theorem F32.bits_ofBits (b : U32) : (F32.ofBits b).bits = b := by
  have := b.isLt
  apply BitVec.eq_of_toNat_eq
  simp only [F32.bits, F32.ofBits, F32.neg_ofMag, BitVec.toNat_ofNat]
  rw [F32.mag_ofMag _ (by omega)]
  by_cases h : 2 ^ 31 ≤ b.toNat
  · simp only [h, decide_true, if_true]; omega
  · simp only [h, decide_false, Bool.false_eq_true, if_false]; omega

/-! ### Classes -/

theorem F32.frac_eq_zero (x : F32) : x.frac = 0 ↔ x.fracTop = false ∧ x.fracLow = 0 := by
  unfold F32.frac
  constructor
  · intro h
    cases ht : x.fracTop
    · simp only [ht] at h
      exact ⟨rfl, BitVec.eq_of_toNat_eq (by simpa using h)⟩
    · simp [ht] at h
  · rintro ⟨h1, h2⟩; simp [h1, h2]

theorem F32.isNaN_iff (x : F32) : x.isNaN = true ↔ 0x7F800000 < x.mag := by
  have h0 := x.frac_eq_zero
  have hf := x.frac_lt
  have he := x.exp.isLt
  have h1 : x.exp = 0xFF ↔ x.exp.toNat = 255 := by
    constructor
    · rintro h; rw [h]; rfl
    · intro h; exact BitVec.eq_of_toNat_eq h
  have h2 : (x.fracTop || x.fracLow != 0) = true ↔ x.frac ≠ 0 := by
    rw [Ne, h0]; cases x.fracTop <;> simp
  unfold F32.isNaN F32.mag
  rw [Bool.and_eq_true, h2, beq_iff_eq, h1]
  omega

theorem F32.isNaN_false_iff (x : F32) : x.isNaN = false ↔ x.mag ≤ 0x7F800000 := by
  have := x.isNaN_iff
  cases h : x.isNaN <;> simp_all

theorem F32.isInf_iff (x : F32) : x.isInf = true ↔ x.mag = 0x7F800000 := by
  have h0 := x.frac_eq_zero
  have hf := x.frac_lt
  have he := x.exp.isLt
  have h1 : x.exp = 0xFF ↔ x.exp.toNat = 255 := by
    constructor
    · rintro h; rw [h]; rfl
    · intro h; exact BitVec.eq_of_toNat_eq h
  have h2 : (!(x.fracTop || x.fracLow != 0)) = true ↔ x.frac = 0 := by
    rw [h0]; cases x.fracTop <;> simp
  unfold F32.isInf F32.mag
  rw [Bool.and_eq_true, h2, beq_iff_eq, h1]
  omega

theorem F32.isFinite_iff (x : F32) : x.isFinite = true ↔ x.mag < 0x7F800000 := by
  have hf := x.frac_lt
  have he := x.exp.isLt
  have h1 : x.exp = 0xFF ↔ x.exp.toNat = 255 := by
    constructor
    · rintro h; rw [h]; rfl
    · intro h; exact BitVec.eq_of_toNat_eq h
  unfold F32.isFinite F32.mag
  rw [bne_iff_ne, Ne, h1]
  omega

@[simp] theorem nanResult_isNaN (op : FloatOp) (a b : F32) : (nanResult op a b).isNaN = true := rfl

theorem roundMag_le (n d : Nat) : roundMag n d ≤ 0x7F800000 := Nat.min_le_right _ _

@[simp] theorem roundF32_isNaN (neg : Bool) (n d : Nat) : (roundF32 neg n d).isNaN = false := by
  have := roundMag_le n d
  rw [F32.isNaN_false_iff, roundF32, F32.mag_ofMag _ (by omega)]
  exact this

theorem fadd_nan_left {a : F32} (b : F32) (h : a.isNaN = true) : (fadd a b).isNaN = true := by simp [fadd, h]

theorem fadd_nan_right (a : F32) {b : F32} (h : b.isNaN = true) : (fadd a b).isNaN = true := by simp [fadd, h]

theorem fsub_nan_left {a : F32} (b : F32) (h : a.isNaN = true) : (fsub a b).isNaN = true := by simp [fsub, h]

theorem fsub_nan_right (a : F32) {b : F32} (h : b.isNaN = true) : (fsub a b).isNaN = true := by simp [fsub, h]

theorem fmul_nan_left {a : F32} (b : F32) (h : a.isNaN = true) : (fmul a b).isNaN = true := by simp [fmul, h]

theorem fmul_nan_right (a : F32) {b : F32} (h : b.isNaN = true) : (fmul a b).isNaN = true := by simp [fmul, h]

/-- A sum that is not NaN has no NaN operand. -/
theorem fadd_not_nan {a b : F32} (h : (fadd a b).isNaN = false) : a.isNaN = false ∧ b.isNaN = false := by
  constructor
  · cases ha : a.isNaN
    · rfl
    · simp [fadd_nan_left b ha] at h
  · cases hb : b.isNaN
    · rfl
    · simp [fadd_nan_right a hb] at h

/-- A difference that is not NaN has no NaN operand. -/
theorem fsub_not_nan {a b : F32} (h : (fsub a b).isNaN = false) : a.isNaN = false ∧ b.isNaN = false := by
  constructor
  · cases ha : a.isNaN
    · rfl
    · simp [fsub_nan_left b ha] at h
  · cases hb : b.isNaN
    · rfl
    · simp [fsub_nan_right a hb] at h

/-- A product that is not NaN has no NaN operand. -/
theorem fmul_not_nan {a b : F32} (h : (fmul a b).isNaN = false) : a.isNaN = false ∧ b.isNaN = false := by
  constructor
  · cases ha : a.isNaN
    · rfl
    · simp [fmul_nan_left b ha] at h
  · cases hb : b.isNaN
    · rfl
    · simp [fmul_nan_right a hb] at h

/-! ### Order -/

theorem fle_iff (a b : F32) : fle a b = true ↔ a.isNaN = false ∧ b.isNaN = false ∧ a.key ≤ b.key := by
  simp [fle, and_assoc]

theorem flt_iff (a b : F32) : flt a b = true ↔ a.isNaN = false ∧ b.isNaN = false ∧ a.key < b.key := by
  simp [flt, and_assoc]

theorem fle_refl {a : F32} (h : a.isNaN = false) : fle a a = true := by simp [fle_iff, h]

theorem fle_trans {a b c : F32} (h1 : fle a b = true) (h2 : fle b c = true) : fle a c = true := by
  rw [fle_iff] at *; exact ⟨h1.1, h2.2.1, by omega⟩

/-- "With `lo <= hi` and `x` not NaN the result lies in `[lo, hi]`" (R20). -/
theorem clamp_mem {x lo hi : F32} (hx : x.isNaN = false) (h : fle lo hi = true) :
    fle lo (clamp x lo hi) = true ∧ fle (clamp x lo hi) hi = true := by
  have hh := (fle_iff _ _).1 h
  unfold clamp
  split
  · exact ⟨fle_refl hh.1, h⟩
  · rename_i h1
    split
    · exact ⟨h, fle_refl hh.2.1⟩
    · rename_i h2
      simp only [flt_iff, hx, hh.1, hh.2.1, true_and, not_lt] at h1 h2
      exact ⟨(fle_iff _ _).2 ⟨hh.1, hx, h1⟩, (fle_iff _ _).2 ⟨hx, hh.2.1, h2⟩⟩

/-- A clamped value that is not NaN came from a value that is not NaN, or from a bound. -/
theorem clamp_not_nan {x lo hi : F32} (h : (clamp x lo hi).isNaN = false) : x.isNaN = false := by
  cases hx : x.isNaN
  · rfl
  · simp [clamp, flt, hx] at h

/-! ### Magnitudes grow with their bits -/

/-- The units of the magnitude bits `m`. -/
def magUnits (m : Nat) : Nat := if m / 2 ^ 23 = 0 then m % 2 ^ 23 else (2 ^ 23 + m % 2 ^ 23) * 2 ^ (m / 2 ^ 23 - 1)

theorem F32.units_eq (x : F32) : x.units = magUnits x.mag := by
  have hf := x.frac_lt
  have h1 : x.mag / 2 ^ 23 = x.exp.toNat := by unfold F32.mag; omega
  have h2 : x.mag % 2 ^ 23 = x.frac := by unfold F32.mag; omega
  have h3 : x.exp = 0 ↔ x.exp.toNat = 0 := by
    constructor
    · rintro h; rw [h]; rfl
    · intro h; exact BitVec.eq_of_toNat_eq h
  unfold F32.units magUnits
  rw [h1, h2]
  simp only [h3]

theorem magUnits_succ (m : Nat) : magUnits m < magUnits (m + 1) := by
  unfold magUnits
  have hm := Nat.div_add_mod m (2 ^ 23)
  by_cases hc : m % 2 ^ 23 = 2 ^ 23 - 1
  · have h1 : (m + 1) / 2 ^ 23 = m / 2 ^ 23 + 1 := by omega
    have h2 : (m + 1) % 2 ^ 23 = 0 := by omega
    rw [h1, h2, hc]
    rcases Nat.eq_zero_or_pos (m / 2 ^ 23) with h0 | h0
    · rw [if_pos h0, if_neg (by omega), h0]; omega
    · obtain ⟨e, he⟩ := Nat.exists_eq_add_of_lt h0
      simp only [he, Nat.zero_add]
      have : 0 < 2 ^ e := Nat.two_pow_pos e
      simp only [Nat.add_sub_cancel, Nat.succ_ne_zero, if_false]
      rw [Nat.pow_succ]
      omega
  · have h1 : (m + 1) / 2 ^ 23 = m / 2 ^ 23 := by omega
    have h2 : (m + 1) % 2 ^ 23 = m % 2 ^ 23 + 1 := by omega
    rw [h1, h2]
    split
    · omega
    · exact Nat.mul_lt_mul_of_pos_right (by omega) (Nat.two_pow_pos _)

theorem magUnits_strictMono : StrictMono magUnits := strictMono_nat_of_lt_succ magUnits_succ

/-- `trunc_u16` on its domain discards the fraction (R21). -/
theorem truncU16_eq {x : F32} (h0 : fle F32.zero x = true) (h1 : fle x F32.max16 = true) :
    (truncU16 x).toNat = x.units / 2 ^ 149 := by
  have hk0 := (fle_iff _ _).1 h0
  have hk1 := (fle_iff _ _).1 h1
  have hm : x.mag ≤ 0x477FFF00 := by
    have : F32.zero.key = 0 := by decide
    have : F32.max16.key = 0x477FFF00 := by decide
    unfold F32.key at *
    split at hk1 <;> simp_all
  have hu : x.units ≤ 65535 * 2 ^ 149 := by
    rw [F32.units_eq]
    calc magUnits x.mag ≤ magUnits 0x477FFF00 := magUnits_strictMono.monotone hm
      _ = 65535 * 2 ^ 149 := by decide
  have : x.units / 2 ^ 149 ≤ 65535 := by
    calc x.units / 2 ^ 149 ≤ 65535 * 2 ^ 149 / 2 ^ 149 := Nat.div_le_div_right hu
      _ = 65535 := by decide
  simp only [truncU16, h0, h1, Bool.and_self, if_true, BitVec.toNat_ofNat]
  omega

/-- `trunc_u16` is monotone on its domain. -/
theorem truncU16_mono {x y : F32} (h0 : fle F32.zero x = true) (hxy : fle x y = true)
    (h1 : fle y F32.max16 = true) : (truncU16 x).toNat ≤ (truncU16 y).toNat := by
  rw [truncU16_eq h0 (fle_trans hxy h1), truncU16_eq (fle_trans h0 hxy) h1]
  apply Nat.div_le_div_right
  have hk0 := (fle_iff _ _).1 h0
  have hk := (fle_iff _ _).1 hxy
  have hz : F32.zero.key = 0 := by decide
  rw [F32.units_eq, F32.units_eq]
  apply magUnits_strictMono.monotone
  rw [hz] at hk0
  unfold F32.key at *
  split at hk <;> split at hk <;> simp_all; omega

/-! ### Rounding to nearest (R19) -/

/-- The candidate below: shifted and cut, it is a magnitude whose units are the quotient's top bits. -/
theorem magUnits_candidate {q shift : Nat} (hq : q < 2 ^ 24) (hn : shift ≠ 0 → 2 ^ 23 ≤ q) :
    magUnits (shift * 2 ^ 23 + q) = q * 2 ^ shift := by
  unfold magUnits
  rcases Nat.eq_zero_or_pos shift with h0 | h0
  · subst h0
    by_cases hs : q < 2 ^ 23
    · rw [if_pos (by omega)]; omega
    · have h1 : (0 * 2 ^ 23 + q) / 2 ^ 23 = 1 := by omega
      have h2 : (0 * 2 ^ 23 + q) % 2 ^ 23 = q - 2 ^ 23 := by omega
      rw [h1, h2, if_neg (by omega)]; omega
  · have hq' := hn (by omega)
    have h1 : (shift * 2 ^ 23 + q) / 2 ^ 23 = shift + 1 := by omega
    have h2 : (shift * 2 ^ 23 + q) % 2 ^ 23 = q - 2 ^ 23 := by omega
    have h3 : 2 ^ 23 + (q - 2 ^ 23) = q := by omega
    rw [h1, h2, if_neg (by omega), Nat.add_sub_cancel, h3]

/-- The candidate above, with its carry into the exponent. -/
theorem magUnits_candidate_succ {q shift : Nat} (hq : q < 2 ^ 24) (hn : shift ≠ 0 → 2 ^ 23 ≤ q) :
    magUnits (shift * 2 ^ 23 + q + 1) = (q + 1) * 2 ^ shift := by
  by_cases h : q + 1 < 2 ^ 24
  · rw [Nat.add_assoc]; exact magUnits_candidate h (fun h0 => by have := hn h0; omega)
  · have hq' : q = 2 ^ 24 - 1 := by omega
    have h1 : (shift * 2 ^ 23 + q + 1) / 2 ^ 23 = shift + 2 := by omega
    have h2 : (shift * 2 ^ 23 + q + 1) % 2 ^ 23 = 0 := by omega
    unfold magUnits
    rw [h1, h2, if_neg (by omega), hq']
    have : shift + 2 - 1 = shift + 1 := by omega
    rw [this, Nat.pow_succ]
    have hx (x : Nat) : (2 ^ 23 + 0) * (x * 2) = (2 ^ 24 - 1 + 1) * x := by omega
    exact hx _

/-- `roundMag n d` is one of the two neighbours of `n / d` among the magnitudes: with `q` and `r` the quotient and
remainder at the candidate's unit, the lower one or, past the middle or at it from an odd one, the upper. -/
theorem roundMag_spec (n : Nat) {d : Nat} (hd : 0 < d) :
    ∃ k u r : Nat, r < u ∧ magUnits k * d + r = n ∧ magUnits (k + 1) * d = magUnits k * d + u ∧
      roundMag n d = min (k + (if u < 2 * r ∨ (2 * r = u ∧ k % 2 = 1) then 1 else 0)) 0x7F800000 := by
  let shift := (n / d).log2 - 23
  let unit := d * 2 ^ shift
  let q := n / unit
  let r := n % unit
  have hu : 0 < unit := Nat.mul_pos hd (Nat.two_pow_pos _)
  have hqd : q = n / d / 2 ^ shift := (Nat.div_div_eq_div_mul ..).symm
  have hlt : n / d < 2 ^ ((n / d).log2 + 1) := Nat.lt_log2_self
  have hq : q < 2 ^ 24 := by
    rw [hqd]
    apply Nat.div_lt_of_lt_mul
    rw [← Nat.pow_add]
    exact Nat.lt_of_lt_of_le hlt (Nat.pow_le_pow_right (by omega) (by omega))
  have hn : shift ≠ 0 → 2 ^ 23 ≤ q := by
    intro h0
    rw [hqd, Nat.le_div_iff_mul_le (Nat.two_pow_pos _), ← Nat.pow_add]
    have hx : n / d ≠ 0 := by
      intro hx
      have h1 : shift = (n / d).log2 - 23 := rfl
      rw [hx] at h1
      simp at h1
      exact h0 h1
    have := Nat.log2_self_le hx
    exact Nat.le_trans (Nat.pow_le_pow_right (by omega) (by omega)) this
  have h1 := magUnits_candidate hq hn
  have h2 := magUnits_candidate_succ hq hn
  have hmul (a : Nat) : a * 2 ^ shift * d = a * unit := by
    simp only [unit]; ring
  refine ⟨shift * 2 ^ 23 + q, unit, r, Nat.mod_lt _ hu, ?_, ?_, ?_⟩
  · rw [h1, hmul, Nat.mul_comm]; exact Nat.div_add_mod n unit
  · rw [h1, h2, hmul, hmul]; ring
  · have hp : (shift * 2 ^ 23 + q) % 2 = q % 2 := by omega
    rw [hp]
    rfl

/-- No magnitude is nearer to `n / d` than `roundMag n d`, and one as near leaves an even one chosen (R19). -/
theorem roundMag_nearest (n : Nat) {d : Nat} (hd : 0 < d) (hf : roundMag n d < 0x7F800000) (k : Nat) :
    ((magUnits (roundMag n d) * d : Nat) - (n : Int)).natAbs ≤ ((magUnits k * d : Nat) - (n : Int)).natAbs ∧
      (((magUnits (roundMag n d) * d : Nat) - (n : Int)).natAbs = ((magUnits k * d : Nat) - (n : Int)).natAbs →
        k ≠ roundMag n d → roundMag n d % 2 = 0) := by
  obtain ⟨c, u, r, hr, hc, hc1, hm⟩ := roundMag_spec n hd
  have hlow (h : k ≤ c) : magUnits k * d ≤ magUnits c * d :=
    Nat.mul_le_mul_right _ (magUnits_strictMono.monotone h)
  have hlow' (h : k < c) : magUnits k * d < magUnits c * d :=
    Nat.mul_lt_mul_of_pos_right (magUnits_strictMono h) hd
  have hhigh (h : c + 1 ≤ k) : magUnits (c + 1) * d ≤ magUnits k * d :=
    Nat.mul_le_mul_right _ (magUnits_strictMono.monotone h)
  have hhigh' (h : c + 1 < k) : magUnits (c + 1) * d < magUnits k * d :=
    Nat.mul_lt_mul_of_pos_right (magUnits_strictMono h) hd
  by_cases hup : u < 2 * r ∨ (2 * r = u ∧ c % 2 = 1)
  · rw [if_pos hup] at hm
    have hm' : roundMag n d = c + 1 := by omega
    rw [hm', hc1]
    generalize magUnits k * d = y at *
    generalize magUnits c * d = x at *
    rcases Nat.lt_trichotomy k c with hk | hk | hk
    · have := hlow' hk; omega
    · subst hk; have := hlow (le_refl _); constructor <;> omega
    · rcases Nat.lt_or_ge (c + 1) k with hk' | hk'
      · have := hhigh' hk'; constructor <;> omega
      · have : k = c + 1 := by omega
        have := hhigh (by omega); omega
  · rw [if_neg hup] at hm
    have hm' : roundMag n d = c := by omega
    rw [hm']
    generalize magUnits k * d = y at *
    generalize hx : magUnits c * d = x at *
    rcases Nat.lt_trichotomy k c with hk | hk | hk
    · have := hlow' hk; constructor <;> omega
    · have := hlow (by omega); constructor <;> omega
    · have := hhigh (by omega)
      constructor <;> omega

end Sys2Proof
end

