-- ==== Sys2Proof/Laws/State.lean ====
section
/-! SUPPORT. One lemma per field per shared update of the state: what `respond`, `emit`, `setPwm`, `enableDrive`,
`disableDrive`, `raise` and `acknowledge` leave and what they write, so that no later proof unfolds a record
update. -/

namespace Sys2Proof.Machine

/-! ### respond -/

@[simp] theorem State.respond_speedTable (s : State) (st : Status) (d : U32) : (s.respond st d).speedTable = s.speedTable := by
  unfold State.respond; cases s.port <;> rfl
@[simp] theorem State.respond_mode (s : State) (st : Status) (d : U32) : (s.respond st d).mode = s.mode := by
  unfold State.respond; cases s.port <;> rfl
@[simp] theorem State.respond_feedForward (s : State) (st : Status) (d : U32) : (s.respond st d).feedForward = s.feedForward := by
  unfold State.respond; cases s.port <;> rfl
@[simp] theorem State.respond_setpoint (s : State) (st : Status) (d : U32) : (s.respond st d).setpoint = s.setpoint := by
  unfold State.respond; cases s.port <;> rfl
@[simp] theorem State.respond_startup (s : State) (st : Status) (d : U32) : (s.respond st d).startup = s.startup := by
  unfold State.respond; cases s.port <;> rfl
@[simp] theorem State.respond_pid (s : State) (st : Status) (d : U32) : (s.respond st d).pid = s.pid := by
  unfold State.respond; cases s.port <;> rfl
@[simp] theorem State.respond_meas (s : State) (st : Status) (d : U32) : (s.respond st d).meas = s.meas := by
  unfold State.respond; cases s.port <;> rfl
@[simp] theorem State.respond_bemf (s : State) (st : Status) (d : U32) : (s.respond st d).bemf = s.bemf := by
  unfold State.respond; cases s.port <;> rfl
@[simp] theorem State.respond_rampDelay (s : State) (st : Status) (d : U32) : (s.respond st d).rampDelay = s.rampDelay := by
  unfold State.respond; cases s.port <;> rfl
@[simp] theorem State.respond_pwmLevel (s : State) (st : Status) (d : U32) : (s.respond st d).pwmLevel = s.pwmLevel := by
  unfold State.respond; cases s.port <;> rfl
@[simp] theorem State.respond_driveEnabled (s : State) (st : Status) (d : U32) : (s.respond st d).driveEnabled = s.driveEnabled := by
  unfold State.respond; cases s.port <;> rfl
@[simp] theorem State.respond_initialised (s : State) (st : Status) (d : U32) : (s.respond st d).initialised = s.initialised := by
  unfold State.respond; cases s.port <;> rfl
@[simp] theorem State.respond_target (s : State) (st : Status) (d : U32) : (s.respond st d).target = s.target := by
  unfold State.respond; cases s.port <;> rfl
@[simp] theorem State.respond_prev (s : State) (st : Status) (d : U32) : (s.respond st d).prev = s.prev := by
  unfold State.respond; cases s.port <;> rfl
@[simp] theorem State.respond_setup (s : State) (st : Status) (d : U32) : (s.respond st d).setup = s.setup := by
  unfold State.respond; cases s.port <;> rfl
@[simp] theorem State.respond_fse (s : State) (st : Status) (d : U32) : (s.respond st d).fse = s.fse := by
  unfold State.respond; cases s.port <;> rfl
@[simp] theorem State.respond_errorState (s : State) (st : Status) (d : U32) : (s.respond st d).errorState = s.errorState := by
  unfold State.respond; cases s.port <;> rfl
@[simp] theorem State.respond_events (s : State) (st : Status) (d : U32) : (s.respond st d).events = s.events := by
  unfold State.respond; cases s.port <;> rfl
@[simp] theorem State.respond_port (s : State) (st : Status) (d : U32) : (s.respond st d).port = s.port := by
  unfold State.respond; cases s.port <;> rfl
@[simp] theorem State.respond_inputs (s : State) (st : Status) (d : U32) : (s.respond st d).inputs = s.inputs := by
  unfold State.respond; cases s.port <;> rfl
@[simp] theorem State.respond_cv (s : State) (st : Status) (d : U32) : (s.respond st d).cv = s.cv := by
  unfold State.respond; cases s.port <;> rfl
@[simp] theorem State.respond_adcAnswers (s : State) (st : Status) (d : U32) : (s.respond st d).adcAnswers = s.adcAnswers := by
  unfold State.respond; cases s.port <;> rfl
@[simp] theorem State.respond_adcDraws (s : State) (st : Status) (d : U32) : (s.respond st d).adcDraws = s.adcDraws := by
  unfold State.respond; cases s.port <;> rfl
@[simp] theorem State.respond_params (s : State) (st : Status) (d : U32) : (s.respond st d).params = s.params := by
  unfold State.respond; cases s.port <;> rfl

theorem State.respond_c {s : State} (h : s.port = .c) (st : Status) (d : U32) :
    s.respond st d = { s with respC := some { status := st, data := d } } := by
  simp [State.respond, h]

theorem State.respond_d {s : State} (h : s.port = .d) (st : Status) (d : U32) :
    s.respond st d = { s with respD := some { status := st, data := d } } := by
  simp [State.respond, h]

/-- The response just returned, at the port the command arrived on. -/
@[simp] theorem State.response_respond (s : State) (st : Status) (d : U32) :
    (s.respond st d).response s.port = some { status := st, data := d } := by
  unfold State.respond; cases h : s.port <;> rfl

/-! ### emit and the events -/

@[simp] theorem State.emit_speedTable (s : State) (e : PeriphEvent) : (s.emit e).speedTable = s.speedTable := rfl
@[simp] theorem State.emit_mode (s : State) (e : PeriphEvent) : (s.emit e).mode = s.mode := rfl
@[simp] theorem State.emit_feedForward (s : State) (e : PeriphEvent) : (s.emit e).feedForward = s.feedForward := rfl
@[simp] theorem State.emit_setpoint (s : State) (e : PeriphEvent) : (s.emit e).setpoint = s.setpoint := rfl
@[simp] theorem State.emit_startup (s : State) (e : PeriphEvent) : (s.emit e).startup = s.startup := rfl
@[simp] theorem State.emit_pid (s : State) (e : PeriphEvent) : (s.emit e).pid = s.pid := rfl
@[simp] theorem State.emit_meas (s : State) (e : PeriphEvent) : (s.emit e).meas = s.meas := rfl
@[simp] theorem State.emit_bemf (s : State) (e : PeriphEvent) : (s.emit e).bemf = s.bemf := rfl
@[simp] theorem State.emit_rampDelay (s : State) (e : PeriphEvent) : (s.emit e).rampDelay = s.rampDelay := rfl
@[simp] theorem State.emit_pwmLevel (s : State) (e : PeriphEvent) : (s.emit e).pwmLevel = s.pwmLevel := rfl
@[simp] theorem State.emit_driveEnabled (s : State) (e : PeriphEvent) : (s.emit e).driveEnabled = s.driveEnabled := rfl
@[simp] theorem State.emit_initialised (s : State) (e : PeriphEvent) : (s.emit e).initialised = s.initialised := rfl
@[simp] theorem State.emit_target (s : State) (e : PeriphEvent) : (s.emit e).target = s.target := rfl
@[simp] theorem State.emit_prev (s : State) (e : PeriphEvent) : (s.emit e).prev = s.prev := rfl
@[simp] theorem State.emit_setup (s : State) (e : PeriphEvent) : (s.emit e).setup = s.setup := rfl
@[simp] theorem State.emit_fse (s : State) (e : PeriphEvent) : (s.emit e).fse = s.fse := rfl
@[simp] theorem State.emit_errorState (s : State) (e : PeriphEvent) : (s.emit e).errorState = s.errorState := rfl
@[simp] theorem State.emit_events (s : State) (e : PeriphEvent) : (s.emit e).events = s.events ++ [e] := rfl
@[simp] theorem State.emit_respC (s : State) (e : PeriphEvent) : (s.emit e).respC = s.respC := rfl
@[simp] theorem State.emit_respD (s : State) (e : PeriphEvent) : (s.emit e).respD = s.respD := rfl
@[simp] theorem State.emit_port (s : State) (e : PeriphEvent) : (s.emit e).port = s.port := rfl
@[simp] theorem State.emit_inputs (s : State) (e : PeriphEvent) : (s.emit e).inputs = s.inputs := rfl
@[simp] theorem State.emit_cv (s : State) (e : PeriphEvent) : (s.emit e).cv = s.cv := rfl
@[simp] theorem State.emit_adcAnswers (s : State) (e : PeriphEvent) : (s.emit e).adcAnswers = s.adcAnswers := rfl
@[simp] theorem State.emit_adcDraws (s : State) (e : PeriphEvent) : (s.emit e).adcDraws = s.adcDraws := rfl
@[simp] theorem State.emit_params (s : State) (e : PeriphEvent) : (s.emit e).params = s.params := rfl

@[simp] theorem State.setPwm_speedTable (s : State) (l : U16) : (s.setPwm l).speedTable = s.speedTable := rfl
@[simp] theorem State.setPwm_mode (s : State) (l : U16) : (s.setPwm l).mode = s.mode := rfl
@[simp] theorem State.setPwm_feedForward (s : State) (l : U16) : (s.setPwm l).feedForward = s.feedForward := rfl
@[simp] theorem State.setPwm_setpoint (s : State) (l : U16) : (s.setPwm l).setpoint = s.setpoint := rfl
@[simp] theorem State.setPwm_startup (s : State) (l : U16) : (s.setPwm l).startup = s.startup := rfl
@[simp] theorem State.setPwm_pid (s : State) (l : U16) : (s.setPwm l).pid = s.pid := rfl
@[simp] theorem State.setPwm_meas (s : State) (l : U16) : (s.setPwm l).meas = s.meas := rfl
@[simp] theorem State.setPwm_bemf (s : State) (l : U16) : (s.setPwm l).bemf = s.bemf := rfl
@[simp] theorem State.setPwm_rampDelay (s : State) (l : U16) : (s.setPwm l).rampDelay = s.rampDelay := rfl
@[simp] theorem State.setPwm_pwmLevel (s : State) (l : U16) : (s.setPwm l).pwmLevel = l := rfl
@[simp] theorem State.setPwm_driveEnabled (s : State) (l : U16) : (s.setPwm l).driveEnabled = s.driveEnabled := rfl
@[simp] theorem State.setPwm_initialised (s : State) (l : U16) : (s.setPwm l).initialised = s.initialised := rfl
@[simp] theorem State.setPwm_target (s : State) (l : U16) : (s.setPwm l).target = s.target := rfl
@[simp] theorem State.setPwm_prev (s : State) (l : U16) : (s.setPwm l).prev = s.prev := rfl
@[simp] theorem State.setPwm_setup (s : State) (l : U16) : (s.setPwm l).setup = s.setup := rfl
@[simp] theorem State.setPwm_fse (s : State) (l : U16) : (s.setPwm l).fse = s.fse := rfl
@[simp] theorem State.setPwm_errorState (s : State) (l : U16) : (s.setPwm l).errorState = s.errorState := rfl
@[simp] theorem State.setPwm_events (s : State) (l : U16) : (s.setPwm l).events = s.events ++ [.setPwm l] := rfl
@[simp] theorem State.setPwm_respC (s : State) (l : U16) : (s.setPwm l).respC = s.respC := rfl
@[simp] theorem State.setPwm_respD (s : State) (l : U16) : (s.setPwm l).respD = s.respD := rfl
@[simp] theorem State.setPwm_port (s : State) (l : U16) : (s.setPwm l).port = s.port := rfl
@[simp] theorem State.setPwm_inputs (s : State) (l : U16) : (s.setPwm l).inputs = s.inputs := rfl
@[simp] theorem State.setPwm_cv (s : State) (l : U16) : (s.setPwm l).cv = s.cv := rfl
@[simp] theorem State.setPwm_adcAnswers (s : State) (l : U16) : (s.setPwm l).adcAnswers = s.adcAnswers := rfl
@[simp] theorem State.setPwm_adcDraws (s : State) (l : U16) : (s.setPwm l).adcDraws = s.adcDraws := rfl
@[simp] theorem State.setPwm_params (s : State) (l : U16) : (s.setPwm l).params = s.params := rfl

@[simp] theorem State.enableDrive_speedTable (s : State) : (s.enableDrive).speedTable = s.speedTable := rfl
@[simp] theorem State.enableDrive_mode (s : State) : (s.enableDrive).mode = s.mode := rfl
@[simp] theorem State.enableDrive_feedForward (s : State) : (s.enableDrive).feedForward = s.feedForward := rfl
@[simp] theorem State.enableDrive_setpoint (s : State) : (s.enableDrive).setpoint = s.setpoint := rfl
@[simp] theorem State.enableDrive_startup (s : State) : (s.enableDrive).startup = s.startup := rfl
@[simp] theorem State.enableDrive_pid (s : State) : (s.enableDrive).pid = s.pid := rfl
@[simp] theorem State.enableDrive_meas (s : State) : (s.enableDrive).meas = s.meas := rfl
@[simp] theorem State.enableDrive_bemf (s : State) : (s.enableDrive).bemf = s.bemf := rfl
@[simp] theorem State.enableDrive_rampDelay (s : State) : (s.enableDrive).rampDelay = s.rampDelay := rfl
@[simp] theorem State.enableDrive_pwmLevel (s : State) : (s.enableDrive).pwmLevel = s.pwmLevel := rfl
@[simp] theorem State.enableDrive_driveEnabled (s : State) : (s.enableDrive).driveEnabled = true := rfl
@[simp] theorem State.enableDrive_initialised (s : State) : (s.enableDrive).initialised = s.initialised := rfl
@[simp] theorem State.enableDrive_target (s : State) : (s.enableDrive).target = s.target := rfl
@[simp] theorem State.enableDrive_prev (s : State) : (s.enableDrive).prev = s.prev := rfl
@[simp] theorem State.enableDrive_setup (s : State) : (s.enableDrive).setup = s.setup := rfl
@[simp] theorem State.enableDrive_fse (s : State) : (s.enableDrive).fse = s.fse := rfl
@[simp] theorem State.enableDrive_errorState (s : State) : (s.enableDrive).errorState = s.errorState := rfl
@[simp] theorem State.enableDrive_events (s : State) : (s.enableDrive).events = s.events ++ [.enableDrive] := rfl
@[simp] theorem State.enableDrive_respC (s : State) : (s.enableDrive).respC = s.respC := rfl
@[simp] theorem State.enableDrive_respD (s : State) : (s.enableDrive).respD = s.respD := rfl
@[simp] theorem State.enableDrive_port (s : State) : (s.enableDrive).port = s.port := rfl
@[simp] theorem State.enableDrive_inputs (s : State) : (s.enableDrive).inputs = s.inputs := rfl
@[simp] theorem State.enableDrive_cv (s : State) : (s.enableDrive).cv = s.cv := rfl
@[simp] theorem State.enableDrive_adcAnswers (s : State) : (s.enableDrive).adcAnswers = s.adcAnswers := rfl
@[simp] theorem State.enableDrive_adcDraws (s : State) : (s.enableDrive).adcDraws = s.adcDraws := rfl
@[simp] theorem State.enableDrive_params (s : State) : (s.enableDrive).params = s.params := rfl

@[simp] theorem State.disableDrive_speedTable (s : State) : (s.disableDrive).speedTable = s.speedTable := rfl
@[simp] theorem State.disableDrive_mode (s : State) : (s.disableDrive).mode = s.mode := rfl
@[simp] theorem State.disableDrive_feedForward (s : State) : (s.disableDrive).feedForward = s.feedForward := rfl
@[simp] theorem State.disableDrive_setpoint (s : State) : (s.disableDrive).setpoint = s.setpoint := rfl
@[simp] theorem State.disableDrive_startup (s : State) : (s.disableDrive).startup = s.startup := rfl
@[simp] theorem State.disableDrive_pid (s : State) : (s.disableDrive).pid = s.pid := rfl
@[simp] theorem State.disableDrive_meas (s : State) : (s.disableDrive).meas = s.meas := rfl
@[simp] theorem State.disableDrive_bemf (s : State) : (s.disableDrive).bemf = s.bemf := rfl
@[simp] theorem State.disableDrive_rampDelay (s : State) : (s.disableDrive).rampDelay = s.rampDelay := rfl
@[simp] theorem State.disableDrive_pwmLevel (s : State) : (s.disableDrive).pwmLevel = s.pwmLevel := rfl
@[simp] theorem State.disableDrive_driveEnabled (s : State) : (s.disableDrive).driveEnabled = false := rfl
@[simp] theorem State.disableDrive_initialised (s : State) : (s.disableDrive).initialised = s.initialised := rfl
@[simp] theorem State.disableDrive_target (s : State) : (s.disableDrive).target = s.target := rfl
@[simp] theorem State.disableDrive_prev (s : State) : (s.disableDrive).prev = s.prev := rfl
@[simp] theorem State.disableDrive_setup (s : State) : (s.disableDrive).setup = s.setup := rfl
@[simp] theorem State.disableDrive_fse (s : State) : (s.disableDrive).fse = s.fse := rfl
@[simp] theorem State.disableDrive_errorState (s : State) : (s.disableDrive).errorState = s.errorState := rfl
@[simp] theorem State.disableDrive_events (s : State) : (s.disableDrive).events = s.events ++ [.disableDrive] := rfl
@[simp] theorem State.disableDrive_respC (s : State) : (s.disableDrive).respC = s.respC := rfl
@[simp] theorem State.disableDrive_respD (s : State) : (s.disableDrive).respD = s.respD := rfl
@[simp] theorem State.disableDrive_port (s : State) : (s.disableDrive).port = s.port := rfl
@[simp] theorem State.disableDrive_inputs (s : State) : (s.disableDrive).inputs = s.inputs := rfl
@[simp] theorem State.disableDrive_cv (s : State) : (s.disableDrive).cv = s.cv := rfl
@[simp] theorem State.disableDrive_adcAnswers (s : State) : (s.disableDrive).adcAnswers = s.adcAnswers := rfl
@[simp] theorem State.disableDrive_adcDraws (s : State) : (s.disableDrive).adcDraws = s.adcDraws := rfl
@[simp] theorem State.disableDrive_params (s : State) : (s.disableDrive).params = s.params := rfl

/-! ### the error bitmask -/

@[simp] theorem State.raise_speedTable (s : State) (x : ErrorBit) : (s.raise x).speedTable = s.speedTable := rfl
@[simp] theorem State.raise_mode (s : State) (x : ErrorBit) : (s.raise x).mode = s.mode := rfl
@[simp] theorem State.raise_feedForward (s : State) (x : ErrorBit) : (s.raise x).feedForward = s.feedForward := rfl
@[simp] theorem State.raise_setpoint (s : State) (x : ErrorBit) : (s.raise x).setpoint = s.setpoint := rfl
@[simp] theorem State.raise_startup (s : State) (x : ErrorBit) : (s.raise x).startup = s.startup := rfl
@[simp] theorem State.raise_pid (s : State) (x : ErrorBit) : (s.raise x).pid = s.pid := rfl
@[simp] theorem State.raise_meas (s : State) (x : ErrorBit) : (s.raise x).meas = s.meas := rfl
@[simp] theorem State.raise_bemf (s : State) (x : ErrorBit) : (s.raise x).bemf = s.bemf := rfl
@[simp] theorem State.raise_rampDelay (s : State) (x : ErrorBit) : (s.raise x).rampDelay = s.rampDelay := rfl
@[simp] theorem State.raise_pwmLevel (s : State) (x : ErrorBit) : (s.raise x).pwmLevel = s.pwmLevel := rfl
@[simp] theorem State.raise_driveEnabled (s : State) (x : ErrorBit) : (s.raise x).driveEnabled = s.driveEnabled := rfl
@[simp] theorem State.raise_initialised (s : State) (x : ErrorBit) : (s.raise x).initialised = s.initialised := rfl
@[simp] theorem State.raise_target (s : State) (x : ErrorBit) : (s.raise x).target = s.target := rfl
@[simp] theorem State.raise_prev (s : State) (x : ErrorBit) : (s.raise x).prev = s.prev := rfl
@[simp] theorem State.raise_setup (s : State) (x : ErrorBit) : (s.raise x).setup = s.setup := rfl
@[simp] theorem State.raise_fse (s : State) (x : ErrorBit) : (s.raise x).fse = s.fse := rfl
@[simp] theorem State.raise_errorState (s : State) (x : ErrorBit) : (s.raise x).errorState = setErrorBit s.errorState x.index := rfl
@[simp] theorem State.raise_events (s : State) (x : ErrorBit) : (s.raise x).events = s.events := rfl
@[simp] theorem State.raise_respC (s : State) (x : ErrorBit) : (s.raise x).respC = s.respC := rfl
@[simp] theorem State.raise_respD (s : State) (x : ErrorBit) : (s.raise x).respD = s.respD := rfl
@[simp] theorem State.raise_port (s : State) (x : ErrorBit) : (s.raise x).port = s.port := rfl
@[simp] theorem State.raise_inputs (s : State) (x : ErrorBit) : (s.raise x).inputs = s.inputs := rfl
@[simp] theorem State.raise_cv (s : State) (x : ErrorBit) : (s.raise x).cv = s.cv := rfl
@[simp] theorem State.raise_adcAnswers (s : State) (x : ErrorBit) : (s.raise x).adcAnswers = s.adcAnswers := rfl
@[simp] theorem State.raise_adcDraws (s : State) (x : ErrorBit) : (s.raise x).adcDraws = s.adcDraws := rfl
@[simp] theorem State.raise_params (s : State) (x : ErrorBit) : (s.raise x).params = s.params := rfl

@[simp] theorem State.acknowledge_speedTable (s : State) (b : BitVec 5) : (s.acknowledge b).speedTable = s.speedTable := rfl
@[simp] theorem State.acknowledge_mode (s : State) (b : BitVec 5) : (s.acknowledge b).mode = s.mode := rfl
@[simp] theorem State.acknowledge_feedForward (s : State) (b : BitVec 5) : (s.acknowledge b).feedForward = s.feedForward := rfl
@[simp] theorem State.acknowledge_setpoint (s : State) (b : BitVec 5) : (s.acknowledge b).setpoint = s.setpoint := rfl
@[simp] theorem State.acknowledge_startup (s : State) (b : BitVec 5) : (s.acknowledge b).startup = s.startup := rfl
@[simp] theorem State.acknowledge_pid (s : State) (b : BitVec 5) : (s.acknowledge b).pid = s.pid := rfl
@[simp] theorem State.acknowledge_meas (s : State) (b : BitVec 5) : (s.acknowledge b).meas = s.meas := rfl
@[simp] theorem State.acknowledge_bemf (s : State) (b : BitVec 5) : (s.acknowledge b).bemf = s.bemf := rfl
@[simp] theorem State.acknowledge_rampDelay (s : State) (b : BitVec 5) : (s.acknowledge b).rampDelay = s.rampDelay := rfl
@[simp] theorem State.acknowledge_pwmLevel (s : State) (b : BitVec 5) : (s.acknowledge b).pwmLevel = s.pwmLevel := rfl
@[simp] theorem State.acknowledge_driveEnabled (s : State) (b : BitVec 5) : (s.acknowledge b).driveEnabled = s.driveEnabled := rfl
@[simp] theorem State.acknowledge_initialised (s : State) (b : BitVec 5) : (s.acknowledge b).initialised = s.initialised := rfl
@[simp] theorem State.acknowledge_target (s : State) (b : BitVec 5) : (s.acknowledge b).target = s.target := rfl
@[simp] theorem State.acknowledge_prev (s : State) (b : BitVec 5) : (s.acknowledge b).prev = s.prev := rfl
@[simp] theorem State.acknowledge_setup (s : State) (b : BitVec 5) : (s.acknowledge b).setup = s.setup := rfl
@[simp] theorem State.acknowledge_fse (s : State) (b : BitVec 5) : (s.acknowledge b).fse = s.fse := rfl
@[simp] theorem State.acknowledge_errorState (s : State) (b : BitVec 5) : (s.acknowledge b).errorState = clearErrorBit s.errorState b := rfl
@[simp] theorem State.acknowledge_events (s : State) (b : BitVec 5) : (s.acknowledge b).events = s.events := rfl
@[simp] theorem State.acknowledge_respC (s : State) (b : BitVec 5) : (s.acknowledge b).respC = s.respC := rfl
@[simp] theorem State.acknowledge_respD (s : State) (b : BitVec 5) : (s.acknowledge b).respD = s.respD := rfl
@[simp] theorem State.acknowledge_port (s : State) (b : BitVec 5) : (s.acknowledge b).port = s.port := rfl
@[simp] theorem State.acknowledge_inputs (s : State) (b : BitVec 5) : (s.acknowledge b).inputs = s.inputs := rfl
@[simp] theorem State.acknowledge_cv (s : State) (b : BitVec 5) : (s.acknowledge b).cv = s.cv := rfl
@[simp] theorem State.acknowledge_adcAnswers (s : State) (b : BitVec 5) : (s.acknowledge b).adcAnswers = s.adcAnswers := rfl
@[simp] theorem State.acknowledge_adcDraws (s : State) (b : BitVec 5) : (s.acknowledge b).adcDraws = s.adcDraws := rfl
@[simp] theorem State.acknowledge_params (s : State) (b : BitVec 5) : (s.acknowledge b).params = s.params := rfl

/-! ### the synchroniser -/

@[simp] theorem State.sync_speedTable (s : State) (g : SharedField) : (s.sync g).speedTable = s.speedTable := by cases g <;> rfl
@[simp] theorem State.sync_mode (s : State) (g : SharedField) : (s.sync g).mode = s.mode := by cases g <;> rfl
@[simp] theorem State.sync_feedForward (s : State) (g : SharedField) : (s.sync g).feedForward = s.feedForward := by cases g <;> rfl
@[simp] theorem State.sync_setpoint (s : State) (g : SharedField) : (s.sync g).setpoint = s.setpoint := by cases g <;> rfl
@[simp] theorem State.sync_startup (s : State) (g : SharedField) : (s.sync g).startup = s.startup := by cases g <;> rfl
@[simp] theorem State.sync_pid (s : State) (g : SharedField) : (s.sync g).pid = s.pid := by cases g <;> rfl
@[simp] theorem State.sync_meas (s : State) (g : SharedField) : (s.sync g).meas = s.meas := by cases g <;> rfl
@[simp] theorem State.sync_bemf (s : State) (g : SharedField) : (s.sync g).bemf = s.bemf := by cases g <;> rfl
@[simp] theorem State.sync_rampDelay (s : State) (g : SharedField) : (s.sync g).rampDelay = s.rampDelay := by cases g <;> rfl
@[simp] theorem State.sync_pwmLevel (s : State) (g : SharedField) : (s.sync g).pwmLevel = s.pwmLevel := by cases g <;> rfl
@[simp] theorem State.sync_driveEnabled (s : State) (g : SharedField) : (s.sync g).driveEnabled = s.driveEnabled := by cases g <;> rfl
@[simp] theorem State.sync_initialised (s : State) (g : SharedField) : (s.sync g).initialised = s.initialised := by cases g <;> rfl
@[simp] theorem State.sync_errorState (s : State) (g : SharedField) : (s.sync g).errorState = s.errorState := by cases g <;> rfl
@[simp] theorem State.sync_events (s : State) (g : SharedField) : (s.sync g).events = s.events := by cases g <;> rfl
@[simp] theorem State.sync_respC (s : State) (g : SharedField) : (s.sync g).respC = s.respC := by cases g <;> rfl
@[simp] theorem State.sync_respD (s : State) (g : SharedField) : (s.sync g).respD = s.respD := by cases g <;> rfl
@[simp] theorem State.sync_port (s : State) (g : SharedField) : (s.sync g).port = s.port := by cases g <;> rfl
@[simp] theorem State.sync_inputs (s : State) (g : SharedField) : (s.sync g).inputs = s.inputs := by cases g <;> rfl
@[simp] theorem State.sync_cv (s : State) (g : SharedField) : (s.sync g).cv = s.cv := by cases g <;> rfl
@[simp] theorem State.sync_adcAnswers (s : State) (g : SharedField) : (s.sync g).adcAnswers = s.adcAnswers := by cases g <;> rfl
@[simp] theorem State.sync_adcDraws (s : State) (g : SharedField) : (s.sync g).adcDraws = s.adcDraws := by cases g <;> rfl
@[simp] theorem State.sync_params (s : State) (g : SharedField) : (s.sync g).params = s.params := by cases g <;> rfl

end Sys2Proof.Machine
end

