-- ==== Sys2Proof/Laws/Ops.lean ====
section
/-! SUPPORT. What each shared operation can do: port permission, the ADC reads, the synchroniser, the reset event. -/

namespace Sys2Proof.Machine

/-- On a permitted port the body runs. -/
theorem onPorts_allowed {ports : PortSet} {s : State} (h : ports.allows s.port = true) (body : State → State) :
    onPorts ports s body = .next (body s) := by
  simp [onPorts, h]

/-- On any other port the answer is `DENIED` with data 0 (R103). -/
theorem onPorts_denied {ports : PortSet} {s : State} (h : ports.allows s.port = false) (body : State → State) :
    onPorts ports s body = .next (s.respond .denied 0) := by
  simp [onPorts, h]

@[simp] theorem PortSet.both_allows (p : Port) : PortSet.both.allows p = true := by cases p <;> rfl

@[simp] theorem PortSet.onlyC_allows (p : Port) : PortSet.onlyC.allows p = true ↔ p = .c := by
  cases p <;> simp [PortSet.allows]

@[simp] theorem PortSet.onlyD_allows (p : Port) : PortSet.onlyD.allows p = true ↔ p = .d := by
  cases p <;> simp [PortSet.allows]

@[simp] theorem Params.sensePin_reverse (p : Params) : p.sensePin .reverse = p.senseReverse := rfl

@[simp] theorem Params.sensePin_forward (p : Params) : p.sensePin .forward = p.senseForward := rfl

/-- A command has one next state: its body's, or the refusal's. -/
theorem onPorts_next (ports : PortSet) (s : State) (body : State → State) :
    (ports.allows s.port = true ∧ onPorts ports s body = .next (body s)) ∨
      (ports.allows s.port = false ∧ onPorts ports s body = .next (s.respond .denied 0)) := by
  cases h : ports.allows s.port
  · exact .inr ⟨rfl, onPorts_denied h body⟩
  · exact .inl ⟨rfl, onPorts_allowed h body⟩

/-- The other port's response and everything else stay when a response is returned. -/
theorem State.respond_frame (s : State) (st : Status) (d : U32) :
    { s.respond st d with respC := s.respC, respD := s.respD } = s := by
  cases h : s.port
  · rw [State.respond_c h]
  · rw [State.respond_d h]

/-- The state after `n` reads of `pin`: the events, the answers used up, the free answers drawn; nothing else. -/
def State.afterReads (s : State) (pin : PinId) (n : Nat) : State :=
  { s with
    events := s.events ++ List.replicate n (.readAdc pin)
    adcAnswers := s.adcAnswers.drop n
    adcDraws := s.adcDraws + (n - s.adcAnswers.length) }

theorem adcRead_state (pin : PinId) (s : State) : (adcRead pin s).2 = s.afterReads pin 1 := by
  cases h : s.adcAnswers <;> simp [adcRead, h, State.afterReads, State.emit]

theorem adcRead_sample_lt (pin : PinId) (s : State) : (adcRead pin s).1.sample < 2 ^ s.adcBits := by
  cases h : s.adcAnswers <;> simp [adcRead, h, Nat.mod_lt]

theorem State.afterReads_add (s : State) (pin : PinId) (m n : Nat) :
    (s.afterReads pin m).afterReads pin n = s.afterReads pin (m + n) := by
  simp only [State.afterReads, List.append_assoc, List.replicate_append_replicate, List.drop_drop, List.length_drop]
  congr 1
  omega

theorem adcReads_state (pin : PinId) (n : Nat) (s : State) : (adcReads pin n s).2 = s.afterReads pin n := by
  induction n generalizing s with
  | zero => simp [adcReads, State.afterReads]
  | succ n ih =>
    simp only [adcReads, ih, adcRead_state, State.afterReads_add]
    rw [Nat.add_comm]

@[simp] theorem adcReads_length (pin : PinId) (n : Nat) (s : State) : (adcReads pin n s).1.length = n := by
  induction n generalizing s with
  | zero => rfl
  | succ n ih => simp [adcReads, ih]

theorem adcReads_sample_lt {pin : PinId} {n : Nat} {s : State} {a : AdcAnswer} (h : a ∈ (adcReads pin n s).1) :
    a.sample < 2 ^ s.adcBits := by
  induction n generalizing s with
  | zero => simp [adcReads] at h
  | succ n ih =>
    simp only [adcReads, List.mem_cons] at h
    obtain rfl | h := h
    · exact adcRead_sample_lt pin s
    · have := ih h
      simpa [adcRead_state, State.afterReads, State.adcBits] using this

/-- Where the driver's answers are known, the reads return them in order, cut to `ADC_BITS` bits. -/
theorem adcReads_known (pin : PinId) (n : Nat) (s : State) (h : n ≤ s.adcAnswers.length) :
    (adcReads pin n s).1 =
      (s.adcAnswers.take n).map fun a => { a with sample := a.sample % 2 ^ s.adcBits } := by
  induction n generalizing s with
  | zero => simp [adcReads]
  | succ n ih =>
    cases ha : s.adcAnswers with
    | nil => simp [ha] at h
    | cons a rest =>
      have hs : (adcRead pin s).2.adcAnswers = rest := by simp [adcRead_state, State.afterReads, ha]
      have hb : (adcRead pin s).2.adcBits = s.adcBits := by simp [adcRead_state, State.afterReads, State.adcBits]
      have := ih (adcRead pin s).2 (by simpa [hs, ha] using h)
      simp only [adcReads, this, hs, hb, List.take_succ_cons, List.map_cons]
      simp [adcRead, ha]

/-- `SYNC(F)` makes the reader's copy of `F` the writer's (R77). -/
theorem State.sync_target (s : State) : (s.sync .target).target = ⟨s.target.w, s.target.w⟩ := rfl

theorem State.sync_prev (s : State) : (s.sync .prev).prev = ⟨s.prev.w, s.prev.w⟩ := rfl

theorem State.sync_setup (s : State) : (s.sync .setup).setup = ⟨s.setup.w, s.setup.w⟩ := rfl

theorem State.sync_fse (s : State) : (s.sync .fse).fse = ⟨s.fse.w, s.fse.w⟩ := rfl

end Sys2Proof.Machine
end

