-- ==== Sys2Proof/Laws/Commands.lean ====
section
/-! SUPPORT. What the shared procedures of the commands can do, each said once: `measure`, the PID tick, the startup
tick, `CTRL_TICK`. -/

namespace Sys2Proof.Machine

/-- The answers of the reads `measure(d)` makes. -/
def State.measureAnswers (s : State) (d : Direction) : List AdcAnswer :=
  (adcReads (s.params.sensePin d) s.bemf.totalIterations.toNat (s.disableDrive.emit (.waitUs s.bemf.delayUs))).1

/-- The state after `measure(d)` has sampled: events, answers used and drawn; nothing else (R143 to R146). -/
def State.afterMeasure (s : State) (d : Direction) : State :=
  { s with
    events := s.events ++ ([.disableDrive, .waitUs s.bemf.delayUs] ++
      (List.replicate s.bemf.totalIterations.toNat (.readAdc (s.params.sensePin d)) ++
        if s.driveEnabled then [.enableDrive] else []))
    adcAnswers := s.adcAnswers.drop s.bemf.totalIterations.toNat
    adcDraws := s.adcDraws + (s.bemf.totalIterations.toNat - s.adcAnswers.length) }

/-- The sampler's contract on the registers (R142). -/
def State.contract (s : State) : Bool :=
  samplerContract s.bemf.totalIterations.toNat s.bemf.leftCutoff.toNat s.bemf.rightCutoff.toNat s.maxSamples

theorem samplerContract_iff (n l r m : Nat) : samplerContract n l r m = true ↔ l + r < n ∧ n ≤ m := by
  simp [samplerContract]

@[simp] theorem State.measureAnswers_length (s : State) (d : Direction) :
    (s.measureAnswers d).length = s.bemf.totalIterations.toNat := by
  simp [State.measureAnswers]

theorem State.measureAnswers_sample_lt {s : State} {d : Direction} {a : AdcAnswer} (h : a ∈ s.measureAnswers d) :
    a.sample < 2 ^ s.adcBits := by
  have := adcReads_sample_lt h
  simpa [State.adcBits] using this

/-- Where the driver's answers are known, they are what `measure` gets, cut to `ADC_BITS` bits. -/
theorem State.measureAnswers_known (s : State) (d : Direction)
    (h : s.bemf.totalIterations.toNat ≤ s.adcAnswers.length) :
    s.measureAnswers d =
      (s.adcAnswers.take s.bemf.totalIterations.toNat).map fun a => { a with sample := a.sample % 2 ^ s.adcBits } := by
  unfold State.measureAnswers
  rw [adcReads_known _ _ _ (by simpa using h)]
  simp [State.adcBits]

/-- A broken contract: `CONFIG_ERROR`, nothing else (R142). -/
theorem measure_broken {s : State} (d : Direction) (h : s.contract = false) :
    measure d s = (none, s.raise .configError) := by
  have h' : samplerContract s.bemf.totalIterations.toNat s.bemf.leftCutoff.toNat s.bemf.rightCutoff.toNat
    s.maxSamples = false := h
  simp [measure, h']

/-- A contract that holds: the reads are made and the drive restored; a fault bit among the answers gives
`MEASUREMENT_FAULT`, else the trimmed mean is returned (R143 to R149). -/
theorem measure_sampled {s : State} (d : Direction) (h : s.contract = true) :
    measure d s =
      if (s.measureAnswers d).any (·.fault) then (none, (s.afterMeasure d).raise .measurementFault)
      else (some (trimmedMean ((s.measureAnswers d).map (·.sample)) s.bemf.leftCutoff.toNat s.bemf.rightCutoff.toNat),
        s.afterMeasure d) := by
  have h' : samplerContract s.bemf.totalIterations.toNat s.bemf.leftCutoff.toNat s.bemf.rightCutoff.toNat
    s.maxSamples = true := h
  have hs : (if s.driveEnabled then
        (adcReads (s.params.sensePin d) s.bemf.totalIterations.toNat
          (s.disableDrive.emit (.waitUs s.bemf.delayUs))).2.enableDrive
      else (adcReads (s.params.sensePin d) s.bemf.totalIterations.toNat (s.disableDrive.emit (.waitUs s.bemf.delayUs))).2) =
      s.afterMeasure d := by
    rw [adcReads_state]
    cases hd : s.driveEnabled <;>
      simp [State.afterReads, State.afterMeasure, State.disableDrive, State.enableDrive, State.emit, hd]
  simp only [measure, h', if_true, State.measureAnswers]
  rw [hs]
  rfl

/-- `measure` does one of three things. -/
theorem measure_cases (d : Direction) (s : State) :
    (s.contract = false ∧ measure d s = (none, s.raise .configError)) ∨
      (s.contract = true ∧ (s.measureAnswers d).any (·.fault) = true ∧
        measure d s = (none, (s.afterMeasure d).raise .measurementFault)) ∨
      (s.contract = true ∧ (s.measureAnswers d).any (·.fault) = false ∧
        measure d s =
          (some (trimmedMean ((s.measureAnswers d).map (·.sample)) s.bemf.leftCutoff.toNat
            s.bemf.rightCutoff.toNat), s.afterMeasure d)) := by
  cases hc : s.contract
  · exact .inl ⟨rfl, measure_broken d hc⟩
  · have := measure_sampled d hc
    cases hf : (s.measureAnswers d).any (·.fault)
    · exact .inr (.inr ⟨rfl, rfl, by simpa [hf] using this⟩)
    · exact .inr (.inl ⟨rfl, rfl, by simpa [hf] using this⟩)

/-- Where the driver's answers are known, `measure` uses them up and draws no free one. -/
theorem State.afterMeasure_known {s : State} {d : Direction} {answers rest : List AdcAnswer}
    (h : s.adcAnswers = answers ++ rest) (hn : answers.length = s.bemf.totalIterations.toNat) :
    s.afterMeasure d = { s with events := (s.afterMeasure d).events, adcAnswers := rest } := by
  have h0 : s.bemf.totalIterations.toNat - s.adcAnswers.length = 0 := by rw [h]; simp; omega
  simp only [State.afterMeasure, h0, Nat.add_zero]
  rw [h, ← hn, List.drop_left]

/-- `measure` on known answers without a fault: the mean of what is left of the sorted samples (R148, R149). -/
theorem measure_known {s : State} (d : Direction) {answers rest : List AdcAnswer} {low kept high : List Nat}
    (h : s.adcAnswers = answers ++ rest) (hn : answers.length = s.bemf.totalIterations.toNat)
    (ha : ∀ a ∈ answers, a.fault = false ∧ a.sample < 2 ^ s.adcBits)
    (hp : (low ++ kept ++ high).Perm (answers.map fun a => a.sample)) (ho : (low ++ kept ++ high).Pairwise (· ≤ ·))
    (hl : low.length = s.bemf.leftCutoff.toNat) (hr : high.length = s.bemf.rightCutoff.toNat) (hk : kept ≠ [])
    (hm : s.bemf.totalIterations.toNat ≤ s.maxSamples) :
    measure d s = (some (fdiv (i2f kept.sum) (i2f kept.length)), s.afterMeasure d) := by
  have hlen := hp.length_eq
  simp only [List.length_append, List.length_map] at hlen
  have hk' : 0 < kept.length := List.length_pos_of_ne_nil hk
  have hc : s.contract = true := (samplerContract_iff _ _ _ _).2 ⟨by omega, hm⟩
  have he : s.measureAnswers d = answers := by
    rw [State.measureAnswers_known _ _ (by rw [h]; simp; omega), h, ← hn, List.take_left]
    conv => rhs; rw [← List.map_id answers]
    apply List.map_congr_left
    intro a hm
    simp [Nat.mod_eq_of_lt (ha a hm).2]
  have hs : (answers.map fun a => a.sample).insertionSort (· ≤ ·) = low ++ kept ++ high :=
    ((List.perm_insertionSort _ _).trans hp.symm).eq_of_pairwise' (List.pairwise_insertionSort _ _) ho
  rw [measure_sampled d hc, he, if_neg]
  · have e : (answers.map fun a => a.sample).length - s.bemf.leftCutoff.toNat - s.bemf.rightCutoff.toNat =
        kept.length := by
      rw [List.length_map]; omega
    unfold trimmedMean keptSamples
    rw [e, hs, ← hl]
    simp
  · rw [Bool.not_eq_true, List.any_eq_false]
    intro a hm
    simp [(ha a hm).1]

/-- The data of a tick's response as a number (R123). -/
theorem State.tickData_eq (s : State) :
    s.tickData = BitVec.ofNat 32 ((if s.mode = .pid then 2 ^ 16 else 0) + s.pwmLevel.toNat) := by
  have h := s.pwmLevel.isLt
  apply BitVec.eq_of_toNat_eq
  simp only [State.tickData, zext32, BitVec.toNat_setWidth, BitVec.toNat_append, BitVec.toNat_ofNat]
  rw [← Nat.shiftLeft_add_eq_or_of_lt h, Nat.shiftLeft_eq]
  cases s.mode <;> simp [Mode.bit]

@[simp] theorem State.pidError_afterMeasure (s : State) (d : Direction) (m : F32) :
    (s.afterMeasure d).pidError m = s.pidError m := rfl

@[simp] theorem State.pidSum_afterMeasure (s : State) (d : Direction) (m : F32) :
    (s.afterMeasure d).pidSum m = s.pidSum m := rfl

@[simp] theorem State.tickData_afterMeasure (s : State) (d : Direction) :
    (s.afterMeasure d).tickData = s.tickData := rfl

@[simp] theorem State.tickData_raise (s : State) (x : ErrorBit) : (s.raise x).tickData = s.tickData := rfl

/-- The PID tick does one of four things (R195): hold on a broken contract, hold on a sample fault, hold on a NaN sum,
or commit. -/
theorem State.pidTick_cases (s : State) :
    (s.contract = false ∧ s.pidTick = (s.raise .configError).respond .fault s.tickData) ∨
      (s.contract = true ∧
        s.pidTick = ((s.afterMeasure (directionOf s.target.r)).raise .measurementFault).respond .fault s.tickData) ∨
      (∃ m, s.contract = true ∧ (s.pidSum m).isNaN = false ∧
        measure (directionOf s.target.r) s = (some m, s.afterMeasure (directionOf s.target.r)) ∧
        s.pidTick = ((s.afterMeasure (directionOf s.target.r)).pidCommit m).respond .ok
          ((s.afterMeasure (directionOf s.target.r)).pidCommit m).tickData) := by
  obtain ⟨hc, hm⟩ | ⟨hc, -, hm⟩ | ⟨hc, -, hm⟩ := measure_cases (directionOf s.target.r) s
  · refine .inl ⟨hc, ?_⟩
    unfold State.pidTick
    rw [hm]
    rfl
  · refine .inr (.inl ⟨hc, ?_⟩)
    unfold State.pidTick
    rw [hm]
    rfl
  · generalize trimmedMean ((s.measureAnswers (directionOf s.target.r)).map (·.sample)) s.bemf.leftCutoff.toNat
      s.bemf.rightCutoff.toNat = m at hm
    cases hn : (s.pidSum m).isNaN
    · refine .inr (.inr ⟨m, hc, hn, hm, ?_⟩)
      unfold State.pidTick
      rw [hm]
      simp only [State.pidSum_afterMeasure, hn, Bool.false_eq_true, if_false]
    · refine .inr (.inl ⟨hc, ?_⟩)
      unfold State.pidTick
      rw [hm]
      simp only [State.pidSum_afterMeasure, hn, if_true, State.tickData_afterMeasure]

/-- A sum that is not NaN has no NaN part (R192: "a NaN `d` makes `u` NaN"). -/
theorem State.pidSum_parts {s : State} {m : F32} (h : (s.pidSum m).isNaN = false) :
    (s.pid.getKp s.setpoint.val).isNaN = false ∧ (s.pidError m).isNaN = false ∧
      (s.pid.integral (s.pidError m)).isNaN = false ∧ (s.pid.derivative (s.pidError m)).isNaN = false := by
  unfold State.pidSum PidState.outputSum at h
  obtain ⟨h1, -⟩ := fadd_not_nan h
  obtain ⟨h2, hd⟩ := fadd_not_nan h1
  obtain ⟨h3, hi⟩ := fadd_not_nan h2
  obtain ⟨hk, he⟩ := fmul_not_nan h3
  exact ⟨hk, he, hi, hd⟩

/-- Every command answers a next state (R13: "No command traps, halts or hangs the CORE"). -/
theorem onPorts_isNext (ports : PortSet) (s : State) (body : State → State) : ∃ t, onPorts ports s body = .next t :=
  ⟨_, rfl⟩

end Sys2Proof.Machine
end

