-- ==== Sys2Proof/Laws/Decode.lean ====
section
/-! SUPPORT. A word and its two fields (spec/30_encoding.md rule R102). -/

namespace Sys2Proof

/-- A bit of a word put together from two bytes. -/
theorem getLsbD_word (op imm : U8) (i : Nat) :
    BitVec.getLsbD (w := 16) (op ++ imm) i = if i < 8 then imm.getLsbD i else op.getLsbD (i - 8) :=
  BitVec.getLsbD_append ..

@[simp] theorem opcodeField_append (op imm : U8) : opcodeField (op ++ imm) = op := by
  apply BitVec.eq_of_getLsbD_eq
  intro i hi
  simp only [opcodeField, BitVec.getLsbD_extractLsb', getLsbD_word]
  simp [hi]

@[simp] theorem imm8Field_append (op imm : U8) : imm8Field (op ++ imm) = imm := by
  apply BitVec.eq_of_getLsbD_eq
  intro i hi
  simp only [imm8Field, BitVec.getLsbD_extractLsb', getLsbD_word]
  simp [hi]

/-- A word is its opcode and its operand byte. -/
theorem word_eq_fields (w : U16) : opcodeField w ++ imm8Field w = w := by
  apply BitVec.eq_of_getLsbD_eq
  intro i hi
  rw [getLsbD_word]
  simp only [opcodeField, imm8Field, BitVec.getLsbD_extractLsb']
  by_cases h : i < 8
  · simp [h]
  · have h1 : i - 8 < 8 := by omega
    have h2 : 8 + (i - 8) = i := by omega
    simp [h, h1, h2]

@[simp] theorem opcodeField_encode (i : Instr) : opcodeField (encode i) = i.opcode := opcodeField_append ..

@[simp] theorem imm8Field_encode (i : Instr) : imm8Field (encode i) = i.imm8 := imm8Field_append ..

end Sys2Proof
end

