-- ==== Sys2Proof/Laws/Exec.lean ====
section
/-! SUPPORT. Every command as port permission and a body, so that a proof names neither `exec` nor a meaning's
definition. -/

namespace Sys2Proof.Machine

theorem exec_directionOf (ss : U8) (s : State) :
    exec (.directionOf ss) s =
      onPorts .both s fun s => s.respond .ok (zext32 (directionOf ss).code) := rfl

theorem exec_tableIndexOf (ss : U8) (s : State) :
    exec (.tableIndexOf ss) s =
      onPorts .both s fun s => s.respond .ok (BitVec.ofNat 32 (tableIndexOf ss).val) := rfl

theorem exec_decodeStep (ss : U8) (s : State) :
    exec (.decodeStep ss) s =
      onPorts .both s fun s => s.respond .ok (decodeStepData ss) := rfl

theorem exec_init (s : State) : exec .init s = onPorts .onlyC s State.initBody := rfl

theorem exec_ctrlTick (s : State) : exec .ctrlTick s = onPorts .onlyC s State.ctrlTickBody := rfl

theorem exec_rampTick (s : State) : exec .rampTick s = onPorts .onlyC s State.rampTickBody := rfl

theorem exec_measure (kk : U8) (s : State) : exec (.measure kk) s = onPorts .onlyC s (State.measureBody kk) := rfl

theorem exec_getKp (vv : U8) (s : State) :
    exec (.getKp vv) s =
      onPorts .onlyC s fun s => s.respond .ok (s.pid.getKp vv.toNat).bits := rfl

theorem exec_getInitialLevel (s : State) : exec .getInitialLevel s =
      onPorts .onlyC s fun s => s.respond .ok s.startup.initialLevel.bits := rfl

theorem exec_setError (b : BitVec 5) (s : State) :
    exec (.setError b) s =
      onPorts .both s fun s =>
        State.respond { s with errorState := setErrorBit s.errorState b } .ok (setErrorBit s.errorState b) := rfl

theorem exec_clearError (b : BitVec 5) (s : State) :
    exec (.clearError b) s =
      onPorts .both s fun s => (s.acknowledge b).respond .ok (clearErrorBit s.errorState b) := rfl

theorem exec_clearAllErrors (s : State) : exec .clearAllErrors s =
      onPorts .both s fun s => State.respond { s with errorState := 0 } .ok 0 := rfl

theorem exec_getErrorState (s : State) : exec .getErrorState s =
      onPorts .both s fun s => s.respond .ok s.errorState := rfl

theorem exec_wrTarget (ss : U8) (s : State) :
    exec (.wrTarget ss) s =
      onPorts .onlyD s fun s =>
        State.respond { s with prev := { s.prev with w := s.target.w }, target := { s.target with w := ss } } .ok 0 := rfl

theorem exec_wrSetupDone (v : Bool) (s : State) :
    exec (.wrSetupDone v) s =
      onPorts .onlyD s fun s => State.respond { s with setup := { s.setup with w := v } } .ok 0 := rfl

theorem exec_wrFseDone (v : Bool) (s : State) :
    exec (.wrFseDone v) s =
      onPorts .onlyC s fun s => State.respond { s with fse := { s.fse with w := v } } .ok 0 := rfl

theorem exec_rdTarget (s : State) : exec .rdTarget s =
      onPorts .both s fun s => s.respond .ok (zext32 (s.target.decodeWritten s.port)) := rfl

theorem exec_rdTargetPrev (s : State) : exec .rdTargetPrev s =
      onPorts .both s fun s => s.respond .ok (zext32 (s.prev.decodeWritten s.port)) := rfl

theorem exec_rdSetupDone (s : State) : exec .rdSetupDone s =
      onPorts .both s fun s => s.respond .ok (zext32 (BitVec.ofBool (s.setup.decodeWritten s.port))) := rfl

theorem exec_rdFseDone (s : State) : exec .rdFseDone s =
      onPorts .both s fun s => s.respond .ok (zext32 (BitVec.ofBool (s.fse.controlWritten s.port))) := rfl

/-- A number that is not reserved is a register, read on port C. -/
theorem exec_rdState {xx : U8} {s : State} {v : U32} (h : regRead s xx = some v) :
    exec (.rdState xx) s = onPorts .onlyC s fun s => s.respond .ok v := by
  simp [exec, execRdState, h]

/-- A reserved number is answered `ILLEGAL` on either port. -/
theorem exec_rdState_reserved {xx : U8} {s : State} (h : regRead s xx = none) :
    exec (.rdState xx) s = .next (s.respond .illegal 0) := by
  simp [exec, execRdState, h]

end Sys2Proof.Machine
end

