-- ==== Sys2Proof/Laws/PerInstr.lean ====
section
/-! SUPPORT. One law per command: its word's two fields are its opcode and its operand byte (spec/30_encoding.md rules
R102, R114), so that a case split on commands has a lemma for each. -/

namespace Sys2Proof.Laws.Fields

/-- The word of a command has the command's opcode in bits 15..8 and its operand byte in bits 7..0. -/
def Statement (i : Instr) : Prop := opcodeField (encode i) = i.opcode ∧ imm8Field (encode i) = i.imm8

theorem statement_of (i : Instr) : Statement i := ⟨opcodeField_encode i, imm8Field_encode i⟩

theorem directionOf (ss : U8) : Statement (.directionOf ss) := statement_of _

theorem tableIndexOf (ss : U8) : Statement (.tableIndexOf ss) := statement_of _

theorem decodeStep (ss : U8) : Statement (.decodeStep ss) := statement_of _

theorem init : Statement .init := statement_of _

theorem ctrlTick : Statement .ctrlTick := statement_of _

theorem rampTick : Statement .rampTick := statement_of _

theorem measure (kk : U8) : Statement (.measure kk) := statement_of _

theorem getKp (vv : U8) : Statement (.getKp vv) := statement_of _

theorem getInitialLevel : Statement .getInitialLevel := statement_of _

theorem setError (b : BitVec 5) : Statement (.setError b) := statement_of _

theorem clearError (b : BitVec 5) : Statement (.clearError b) := statement_of _

theorem clearAllErrors : Statement .clearAllErrors := statement_of _

theorem getErrorState : Statement .getErrorState := statement_of _

theorem wrTarget (ss : U8) : Statement (.wrTarget ss) := statement_of _

theorem wrSetupDone (v : Bool) : Statement (.wrSetupDone v) := statement_of _

theorem wrFseDone (v : Bool) : Statement (.wrFseDone v) := statement_of _

theorem rdTarget : Statement .rdTarget := statement_of _

theorem rdTargetPrev : Statement .rdTargetPrev := statement_of _

theorem rdSetupDone : Statement .rdSetupDone := statement_of _

theorem rdFseDone : Statement .rdFseDone := statement_of _

theorem rdState (xx : U8) : Statement (.rdState xx) := statement_of _

end Sys2Proof.Laws.Fields
end

