-- ==== Sys2Proof/Laws/Rounding.lean ====
section
/-! SUPPORT. The one rounding of every arithmetic operation does what `F32.RoundsTo` says: to nearest, ties to even,
with its overflow. -/

namespace Sys2Proof

/-- The rounded magnitude is finite exactly when the exact one is below half a unit past the largest finite one. -/
theorem roundMag_finite_iff (n : Nat) {d : Nat} (hd : 0 < d) :
    roundMag n d < 0x7F800000 ↔ n < (2 ^ 25 - 1) * 2 ^ 252 * d := by
  obtain ⟨k, u, r, hr, hk, hk1, hm⟩ := roundMag_spec n hd
  have hmono {a b : Nat} (h : a ≤ b) : magUnits a * d ≤ magUnits b * d :=
    Nat.mul_le_mul_right _ (magUnits_strictMono.monotone h)
  have hlast : magUnits 0x7F7FFFFF * d = (2 ^ 25 - 2) * (2 ^ 252 * d) := by
    rw [← Nat.mul_assoc, show magUnits 0x7F7FFFFF = (2 ^ 25 - 2) * 2 ^ 252 by decide]
  have hinf : magUnits (0x7F7FFFFF + 1) * d = 2 ^ 25 * (2 ^ 252 * d) := by
    rw [← Nat.mul_assoc, show magUnits (0x7F7FFFFF + 1) = 2 ^ 25 * 2 ^ 252 by decide]
  have hup : roundMag n d < 0x7F800000 ↔
      k + (if u < 2 * r ∨ (2 * r = u ∧ k % 2 = 1) then 1 else 0) < 0x7F7FFFFF + 1 := by
    rw [hm, min_lt_iff]; simp
  rw [hup, Nat.mul_assoc]
  clear hm hup
  generalize 2 ^ 252 * d = x at *
  have hodd : 0x7F7FFFFF % 2 = 1 := rfl
  generalize 0x7F7FFFFF = m at *
  rcases Nat.lt_trichotomy k m with h | h | h
  · have := hmono (show k + 1 ≤ m by omega)
    have h1 : k + (if u < 2 * r ∨ (2 * r = u ∧ k % 2 = 1) then 1 else 0) < m + 1 := by split <;> omega
    simp only [h1, true_iff]; omega
  · subst h
    split <;> omega
  · have := hmono (show m + 1 ≤ k by omega)
    have h1 : ¬ k + (if u < 2 * r ∨ (2 * r = u ∧ k % 2 = 1) then 1 else 0) < m + 1 := by omega
    simp only [h1, false_iff]; omega

/-- The last bit of a pattern is that of its magnitude. -/
theorem F32.bits_mod_two (x : F32) : x.bits.toNat % 2 = x.mag % 2 := by
  simp only [F32.bits, BitVec.toNat_ofNat]
  split <;> omega

/-- `roundF32` rounds `±n/d` as R19 says, `neg` giving the sign. -/
theorem roundF32_roundsTo (neg : Bool) (n : Nat) {d : Nat} (hd : 0 < d) :
    (roundF32 neg n d).RoundsTo (if neg then -(n : Int) else n) d := by
  have hle := roundMag_le n d
  have hmag : (roundF32 neg n d).mag = roundMag n d := F32.mag_ofMag _ (by omega)
  have hfin : (roundF32 neg n d).isFinite = true ↔ n < (2 ^ 25 - 1) * 2 ^ 252 * d := by
    rw [F32.isFinite_iff, hmag, roundMag_finite_iff n hd]
  have habs : (if neg then -(n : Int) else n).natAbs = n := by split <;> simp
  refine ⟨by rw [habs]; exact hfin, fun hf y hy => ?_, fun hf => ?_⟩
  · rw [F32.isFinite_iff, hmag] at hf
    have near := roundMag_nearest n hd hf y.mag
    have zero := roundMag_nearest n hd hf 0
    rw [show magUnits 0 * d = 0 by simp [show magUnits 0 = 0 by decide]] at zero
    have hval : (roundF32 neg n d).value * d =
        if neg then -((magUnits (roundMag n d) * d : Nat) : Int) else (magUnits (roundMag n d) * d : Nat) := by
      rw [F32.value, F32.units_eq, hmag]
      rw [show (roundF32 neg n d).neg = neg from rfl]
      cases neg <;> simp
    have hy' : y.value * d =
        if y.neg then -((magUnits y.mag * d : Nat) : Int) else (magUnits y.mag * d : Nat) := by
      rw [F32.value, F32.units_eq]
      cases y.neg <;> simp
    have hne (h : y.value ≠ (roundF32 neg n d).value) (hs : y.neg = neg) : y.mag ≠ roundMag n d := by
      intro hm
      exact h (congrArg F32.value (F32.ext_mag (by rw [hs]; rfl) (hm.trans hmag.symm)))
    have h0 (h : y.value ≠ (roundF32 neg n d).value) (hm : magUnits y.mag * d = 0) : 0 ≠ roundMag n d := by
      intro h1
      apply h
      have hu : magUnits y.mag = 0 := by
        rcases Nat.mul_eq_zero.1 hm with h | h
        · exact h
        · omega
      rw [F32.value, F32.value, F32.units_eq, F32.units_eq, hu, hmag, ← h1, show magUnits 0 = 0 by decide]
      simp
    rw [F32.bits_mod_two, hmag, hval, hy']
    clear hle hf hfin habs hval hy'
    generalize magUnits y.mag * d = Y at *
    generalize magUnits (roundMag n d) * d = R at *
    by_cases hs : y.neg = neg
    · rw [hs]
      refine ⟨?_, fun ht hv => near.2 ?_ (hne hv hs)⟩ <;> cases neg <;> simp_all <;> omega
    · have hs' : y.neg = !neg := by revert hs; cases y.neg <;> cases neg <;> simp
      rw [hs']
      cases neg <;> simp only [Bool.not_true, Bool.not_false, if_true, if_false, Bool.false_eq_true] at * <;>
        exact ⟨by omega, fun ht hv => zero.2 (by omega) (h0 hv (by clear hv h0 hne near; omega))⟩
  · have hn : ¬ n < (2 ^ 25 - 1) * 2 ^ 252 * d := by rw [← hfin]; simp [hf]
    have hpos : 0 < n := by
      have : 0 < (2 ^ 25 - 1) * 2 ^ 252 * d := Nat.mul_pos (by decide) hd
      omega
    have hm : roundMag n d = 0x7F800000 := by
      have := (roundMag_finite_iff n hd).not.2 hn
      omega
    have hsign : decide ((if neg then -(n : Int) else n) < 0) = neg := by cases neg <;> simp; omega
    rw [hsign, roundF32, hm]
    cases neg <;> rfl

end Sys2Proof
end

