-- ==== Sys2Proof/Laws/Safety.lean ====
section
/-! SUPPORT. What the shadow registers' readings of the event history do as the history grows (spec/10_state.md rule
R44; spec/60_exceptions.md rules R281, R282). -/

namespace Sys2Proof.Machine

theorem State.respond_returns (s : State) (st : Status) (d : U32) : s.Returns (s.respond st d) ⟨st, d⟩ := by
  cases h : s.port <;> simp [State.Returns, State.response, otherPort, State.respond, h]

/-- Returning a response returns it, on that port, and changes nothing else. -/
theorem State.respond_onlyAnswers (s : State) (st : Status) (d : U32) :
    s.OnlyAnswers (s.respond st d) ⟨st, d⟩ :=
  ⟨s.respond_returns st d, s.respond_frame st d⟩

/-- A response returned in a state with the same port and responses is a response returned from `s`. -/
theorem State.returns_respond_of {s s' : State} {st : Status} {d : U32} (hp : s'.port = s.port)
    (hc : s'.respC = s.respC) (hd : s'.respD = s.respD) : s.Returns (s'.respond st d) ⟨st, d⟩ := by
  have h := s'.respond_returns st d
  unfold State.Returns at *
  rw [hp] at h
  refine ⟨h.1, h.2.trans ?_⟩
  cases s.port <;> simp [State.response, otherPort, *]

@[simp] theorem lastPwm_nil : lastPwm [] = 0 := rfl

@[simp] theorem lastDrive_nil : lastDrive [] = false := rfl

@[simp] theorem lastPwm_setPwm (es : List PeriphEvent) (level : U16) : lastPwm (es ++ [.setPwm level]) = level := by
  simp [lastPwm]

@[simp] theorem lastDrive_setPwm (es : List PeriphEvent) (level : U16) :
    lastDrive (es ++ [.setPwm level]) = lastDrive es := by
  simp [lastDrive]

@[simp] theorem lastPwm_enableDrive (es : List PeriphEvent) : lastPwm (es ++ [.enableDrive]) = lastPwm es := by
  simp [lastPwm]

@[simp] theorem lastDrive_enableDrive (es : List PeriphEvent) : lastDrive (es ++ [.enableDrive]) = true := by
  simp [lastDrive]

@[simp] theorem lastPwm_disableDrive (es : List PeriphEvent) : lastPwm (es ++ [.disableDrive]) = lastPwm es := by
  simp [lastPwm]

@[simp] theorem lastDrive_disableDrive (es : List PeriphEvent) : lastDrive (es ++ [.disableDrive]) = false := by
  simp [lastDrive]

@[simp] theorem lastPwm_waitUs (es : List PeriphEvent) (n : U32) : lastPwm (es ++ [.waitUs n]) = lastPwm es := by
  simp [lastPwm]

@[simp] theorem lastDrive_waitUs (es : List PeriphEvent) (n : U32) : lastDrive (es ++ [.waitUs n]) = lastDrive es := by
  simp [lastDrive]

@[simp] theorem lastPwm_readAdc (es : List PeriphEvent) (pin : PinId) :
    lastPwm (es ++ [.readAdc pin]) = lastPwm es := by
  simp [lastPwm]

@[simp] theorem lastDrive_readAdc (es : List PeriphEvent) (pin : PinId) :
    lastDrive (es ++ [.readAdc pin]) = lastDrive es := by
  simp [lastDrive]

@[simp] theorem lastPwm_reads (es : List PeriphEvent) (n : Nat) (pin : PinId) :
    lastPwm (es ++ List.replicate n (.readAdc pin)) = lastPwm es := by
  induction n with
  | zero => simp
  | succ n ih => rw [List.replicate_succ', ← List.append_assoc, lastPwm_readAdc, ih]

@[simp] theorem lastDrive_reads (es : List PeriphEvent) (n : Nat) (pin : PinId) :
    lastDrive (es ++ List.replicate n (.readAdc pin)) = lastDrive es := by
  induction n with
  | zero => simp
  | succ n ih => rw [List.replicate_succ', ← List.append_assoc, lastDrive_readAdc, ih]

/-- The events of a measurement, one at a time (R143 to R146). -/
theorem State.afterMeasure_events (s : State) (d : Direction) :
    (s.afterMeasure d).events =
      s.events ++ [.disableDrive] ++ [.waitUs s.bemf.delayUs] ++
        List.replicate s.bemf.totalIterations.toNat (.readAdc (s.params.sensePin d)) ++
        (if s.driveEnabled then [.enableDrive] else []) := by
  simp [State.afterMeasure]

/-- A measurement sets no PWM level (R281). -/
theorem lastPwm_afterMeasure (s : State) (d : Direction) : lastPwm (s.afterMeasure d).events = lastPwm s.events := by
  rw [State.afterMeasure_events]
  cases s.driveEnabled
  · rw [if_neg (by decide), List.append_nil, lastPwm_reads, lastPwm_waitUs, lastPwm_disableDrive]
  · rw [if_pos rfl, lastPwm_enableDrive, lastPwm_reads, lastPwm_waitUs, lastPwm_disableDrive]

/-- After a measurement the drive is on where it was on, and off where it was off (R146). -/
theorem lastDrive_afterMeasure (s : State) (d : Direction) :
    lastDrive (s.afterMeasure d).events = s.driveEnabled := by
  rw [State.afterMeasure_events]
  cases s.driveEnabled
  · rw [if_neg (by decide), List.append_nil, lastDrive_reads, lastDrive_waitUs, lastDrive_disableDrive]
  · rw [if_pos rfl, lastDrive_enableDrive]

/-- The invariant reads these fields only. -/
theorem State.Inv.congr {s t : State} (h : s.Inv) (h1 : t.pwmLevel = s.pwmLevel)
    (h2 : t.driveEnabled = s.driveEnabled) (h3 : t.events = s.events) (h4 : t.startup = s.startup)
    (h5 : t.mode = s.mode) (h6 : t.pid = s.pid) (h7 : t.meas = s.meas) (h8 : t.bemf = s.bemf)
    (h9 : t.params = s.params) (h10 : t.initialised = s.initialised) (h11 : t.setpoint = s.setpoint) : t.Inv := by
  refine ⟨?_, ?_, ?_, ?_, ?_, ?_, ?_, ?_, ?_⟩
  · rw [h1, h3]; exact h.shadowPwm
  · rw [h2, h3]; exact h.shadowDrive
  · rw [h4]; exact h.ring
  · rw [h4, h5]; exact h.learned
  · rw [h6, h1]; exact h.output
  · rw [h6]; exact h.integral
  · have := h.unpoisoned; unfold State.pidWritten at *; rw [h6, h7]; exact this
  · intro hi
    obtain ⟨a, b, c, d, e, f, g⟩ := h.configured (h10 ▸ hi)
    refine ⟨?_, ?_, ?_, ?_, ?_, ?_, ?_⟩
    · unfold State.configFloats at *; rw [h6, h4, h7]; exact a
    all_goals (first | rw [h6]; assumption | (unfold State.maxSamples at *; rw [h8, h9]; assumption))
  · intro hi
    obtain ⟨a, b, c, d⟩ := h.unconfigured (h10 ▸ hi)
    refine ⟨?_, ?_, ?_, ?_⟩
    · rw [h11, h5, h1, h2]; exact a
    · rw [h3]; exact b
    · rw [h8]; exact c
    · rw [h6]; exact d

/-- A response leaves the invariant. -/
theorem State.Inv.respond {s : State} (h : s.Inv) (st : Status) (d : U32) : (s.respond st d).Inv := by
  apply h.congr <;> simp

/-- A raise leaves the invariant. -/
theorem State.Inv.raise {s : State} (h : s.Inv) (x : ErrorBit) : (s.raise x).Inv := by
  apply h.congr <;> simp

end Sys2Proof.Machine
end

