-- ==== Sys2Proof/Laws/Step.lean ====
section
/-! SUPPORT. What a step can do: it always answers a next state, and which input it took. -/

namespace Sys2Proof.Machine

/-- `step` without its outcome (it has but one, `step_next`). -/
def stepped (s : State) : State :=
  match step s with
  | .next t => t
  | .fault _ | .refused _ => s

/-- Every command answers a next state (R13: no command traps, halts or hangs the CORE). -/
theorem exec_isNext (i : Instr) (s : State) : ∃ t, exec i s = .next t := by
  cases i with
  | rdState xx =>
    simp only [exec, execRdState]
    split
    · exact ⟨_, rfl⟩
    · exact ⟨_, rfl⟩
  | _ => exact ⟨_, rfl⟩

/-- Every step answers a next state. -/
theorem step_next (s : State) : step s = .next (stepped s) := by
  have h : ∃ t, step s = .next t := by
    unfold step
    split
    · exact ⟨_, rfl⟩
    · rename_i x rest _
      cases x with
      | command p w =>
        simp only [takeInput, acceptWord]
        split
        · exact exec_isNext _ _
        · exact ⟨_, rfl⟩
      | _ => exact ⟨_, rfl⟩
  obtain ⟨t, h⟩ := h
  simp [stepped, h]

/-- What a step can be: waiting, or one of the inputs, with the whole next state. -/
theorem step_cases {s t : State} (h : step s = .next t) :
    (s.inputs = [] ∧ t = s) ∨
      (∃ p w rest, s.inputs = .command p w :: rest ∧
        ((∃ i, decode w = .ok i ∧ exec i { s with inputs := rest, port := p } = .next t) ∨
          ((∃ e, decode w = .error e) ∧
            t = State.respond { s with inputs := rest, port := p } .illegal 0))) ∨
      (∃ f rest, s.inputs = .sync f :: rest ∧ t = State.sync { s with inputs := rest } f) ∨
      (∃ rest, s.inputs = .reset :: rest ∧ t = State.applyReset { s with inputs := rest }) ∨
      (∃ c rest, s.inputs = .cvStore c :: rest ∧ t = { s with inputs := rest, cv := c }) ∨
      ∃ as rest, s.inputs = .adc as :: rest ∧ t = { s with inputs := rest, adcAnswers := as } := by
  unfold step at h
  split at h
  · simp_all
  · rename_i x rest hin
    cases x with
    | command p w =>
      refine .inr (.inl ⟨p, w, rest, hin, ?_⟩)
      simp only [takeInput, acceptWord] at h
      split at h
      · rename_i i hd
        exact .inl ⟨i, hd, h⟩
      · rename_i e hd
        exact .inr ⟨⟨e, hd⟩, (Host.Outcome.next.inj h).symm⟩
    | sync f => exact .inr (.inr (.inl ⟨f, rest, hin, (Host.Outcome.next.inj h).symm⟩))
    | reset => exact .inr (.inr (.inr (.inl ⟨rest, hin, (Host.Outcome.next.inj h).symm⟩)))
    | cvStore c => exact .inr (.inr (.inr (.inr (.inl ⟨c, rest, hin, (Host.Outcome.next.inj h).symm⟩))))
    | adc as => exact .inr (.inr (.inr (.inr (.inr ⟨as, rest, hin, (Host.Outcome.next.inj h).symm⟩))))

end Sys2Proof.Machine
end

