-- ==== Sys2Proof/Laws/Schedule.lean ====
section
/-! SUPPORT. What the schedule assumptions of R78 give a run: the bound between ticks, the eventual synchronisation of
the control core's flag, and that no schedule makes the CORE wait. -/

namespace Sys2Proof.Machine

/-- R78 (c): every schedule has a run from every state; no command waits for a `SYNC`. -/
theorem Schedule.exists_run (x : Schedule) (s : State) : ∃ r, r 0 = s ∧ x.IsRun r :=
  ⟨fun n => n.rec s fun k t => stepped { t with inputs := [x k] }, rfl, fun _ => step_next _⟩

/-- R78 (b) in a run: after every write of the flag there comes a step at which the reader has the writer's value. -/
theorem Schedule.fse_write_reaches_reader {x : Schedule} {r : Nat → State} (hr : x.IsRun r) (hf : x.fseFair) {n : Nat}
    (hw : (x n).writesFse = true) :
    ∃ m, n < m ∧ (r (m + 1)).fse = ⟨(r m).fse.w, (r m).fse.w⟩ := by
  obtain ⟨m, hm, hx⟩ := hf n hw
  have h := hr m
  rw [hx] at h
  exact ⟨m, hm, by rw [← Host.Outcome.next.inj h]; rfl⟩

/-- What a schedule fresh up to its first tick, or not yet fresh, owes before it. -/
theorem sync_mem_of_fresh {f : SharedField} {mid post : List Input} {w : U16} (hw : decode w = .ok .ctrlTick) :
    ∀ fresh, freshBetweenTicks f fresh (mid ++ .command .c w :: post) = true → fresh = true ∨ .sync f ∈ mid := by
  induction mid with
  | nil => intro fresh h; simp_all [freshBetweenTicks]
  | cons y mid ih =>
    intro fresh h
    rcases y with ⟨p, v⟩ | g | _ | _ | _
    · cases p
      · simp only [List.cons_append, freshBetweenTicks] at h
        split at h
        · exact .inl (by simp_all)
        · exact (ih _ h).imp_right (List.mem_cons_of_mem _)
      · exact (ih _ h).imp_right (List.mem_cons_of_mem _)
    · rcases ih _ h with h | h
      · rcases Bool.or_eq_true_iff.1 h with h | h
        · exact .inl h
        · exact .inr (by simp_all)
      · exact .inr (List.mem_cons_of_mem _ h)
    all_goals exact (ih _ h).imp_right (List.mem_cons_of_mem _)

/-- R78 (a): between any two `CTRL_TICK` commands of a bounded schedule a `SYNC` of the field occurs. -/
theorem sync_mem_between_ticks {f : SharedField} {pre mid post : List Input} {v w : U16}
    (hv : decode v = .ok .ctrlTick) (hw : decode w = .ok .ctrlTick) {fresh : Bool}
    (h : freshBetweenTicks f fresh (pre ++ .command .c v :: (mid ++ .command .c w :: post)) = true) :
    .sync f ∈ mid := by
  induction pre generalizing fresh with
  | nil =>
    simp only [List.nil_append, freshBetweenTicks, hv, if_true, Bool.and_eq_true] at h
    exact (sync_mem_of_fresh hw _ h.2).resolve_left (by simp)
  | cons y pre ih =>
    rcases y with ⟨p, u⟩ | g | _ | _ | _
    · cases p
      · simp only [List.cons_append, freshBetweenTicks] at h
        split at h
        · exact ih (Bool.and_eq_true_iff.1 h).2
        · exact ih h
      · exact ih h
    all_goals exact ih h

end Sys2Proof.Machine
end

