-- ==== Sys2Proof/Tests/Slice0.lean ====
section
/-! SUPPORT. Tests.  Words are written out from the command map (spec/30_encoding.md rule R114), expected values are the
spec's own (spec/95_test_vectors.md, the section named at each test).  The theorems named `witness_…` show, for each
statement with hypotheses, states and operands that meet them. -/

namespace Sys2Proof.Tests

open Sys2Proof.Machine

-- A `decide +kernel` waits for every declaration before it; elaborated one by one, the tests hold one thread, not one each.
set_option Elab.async false

/-! ### Helpers -/

/-- The configuration CFG1 of spec/95_test_vectors.md section 1.1. -/
def cfg1 : CvConfig :=
  { speedTable := Vector.ofFn fun k => BitVec.ofNat 16 (100 * k.val)
    kI := F32.ofBits 0x40000000, kD := F32.ofBits 0x3F000000, t := F32.ofBits 0x3C800000, tau := F32.ofBits 0x3CC00000
    intLimMin := F32.ofBits 0xC47A0000, intLimMax := F32.ofBits 0x447A0000, maxOutput := F32.ofBits 0x469C4000
    x1Shift := F32.ofBits 0, x1 := F32.ofBits 0x42480000, x2 := F32.ofBits 0x42C80000
    y0 := F32.ofBits 0x3F800000, y1 := F32.ofBits 0x40000000, y2 := F32.ofBits 0x3F000000
    kFf := F32.ofBits 0x3F000000, rampStep := 400, adcOffset := F32.ofBits 0x41200000
    delayUs := 100, totalIterations := 10, leftCutoff := 2, rightCutoff := 2, rampDelay := 5 }

/-- The state after `exec`. -/
def after (i : Instr) (s : State) : State :=
  match exec i s with
  | .next t => t
  | .fault _ | .refused _ => s

/-- Reset, CFG1 in the CV store, the ready flag seen: what `INIT` runs in. -/
def ready : State := { State.reset with cv := cfg1, setup := { w := true, r := true } }

/-- After boot with CFG1 (spec/95_test_vectors.md section 1). -/
def booted : State := after .init ready

/-- `s` at port D. -/
def atD (s : State) : State := { s with port := .d }

/-- `s` with an input to take. -/
def given (x : Input) (s : State) : State := { s with inputs := [x] }

/-- Answers without a fault. -/
def good (samples : List Nat) : List AdcAnswer := samples.map fun v => { sample := v, fault := false }

/-- Scenario A's samples (spec/95_test_vectors.md section 2.1). -/
def scenarioA : List Nat := [5, 1, 9, 3, 7, 2, 8, 4, 6, 10]

/-- `booted` with the ADC driver's next answers known. -/
def sampling (answers : List AdcAnswer) : State := { booted with adcAnswers := answers }

/-- Ten answers of 560, the first with the fault bit. -/
def firstFaulted : List AdcAnswer := { sample := 560, fault := true } :: good (.replicate 9 560)

/-- The start state of the startup sequences (section 3.4): after boot, a setpoint. -/
def departing (setpoint : Fin 127) : State := { booted with setpoint }

/-- The start state of the PID sequences (section 3.5). -/
def controlling (feedForward : U32) (answers : List AdcAnswer) : State :=
  { booted with
    mode := .pid, setpoint := 5, feedForward := F32.ofBits feedForward
    startup := { booted.startup with histCount := 1, histIdx := 1, level := 500, seeded := true }
    target := { w := 0x86, r := 0x86 }, adcAnswers := answers }

/-- Learned levels in the ring. -/
def learned (levels : List Nat) (count : Fin 17) : State :=
  { booted with
    startup :=
      { booted.startup with
        history := Vector.ofFn fun k => BitVec.ofNat 16 (levels.getD k.val 0), histCount := count } }

/-! ### Well-formedness: the one check (format X, R112) and its refusal -/

theorem test_wf_refuses_reserved_index : (Instr.rdState 0x7F).wf = false := by decide

theorem test_decode_refuses_reserved_index : decode 0x607F = .error (.reservedRegister 0x7F) := by decide

theorem test_wf_admits_last_index : (Instr.rdState 0xD4).wf = true := by decide

/-! ### Decoding: a word of every command from the map (R114), then each kind of illegal word (R118) -/

theorem test_decode_codec :
    decode 0b0000000010000001 = .ok (.directionOf 0x81) ∧ decode 0b0000000111111111 = .ok (.tableIndexOf 0xFF) ∧
      decode 0b0000001010000001 = .ok (.decodeStep 0x81) := by decide

theorem test_decode_control :
    decode 0b0001000000000000 = .ok .init ∧ decode 0b0001000100000000 = .ok .ctrlTick ∧
      decode 0b0001001000000000 = .ok .rampTick := by decide

theorem test_decode_sampler : decode 0b0010000000000111 = .ok (.measure 7) := by decide

theorem test_decode_gains :
    decode 0b0011000010010110 = .ok (.getKp 150) ∧ decode 0b0011000100000000 = .ok .getInitialLevel := by decide

theorem test_decode_errors :
    decode 0b0100000000011111 = .ok (.setError 31) ∧ decode 0b0100000100000110 = .ok (.clearError 6) ∧
      decode 0b0100001000000000 = .ok .clearAllErrors ∧ decode 0b0100001100000000 = .ok .getErrorState := by decide

theorem test_decode_shared :
    decode 0b0101000010001010 = .ok (.wrTarget 0x8A) ∧ decode 0b0101000100000001 = .ok (.wrSetupDone true) ∧
      decode 0b0101001000000000 = .ok (.wrFseDone false) ∧ decode 0b0101001100000000 = .ok .rdTarget ∧
      decode 0b0101010000000000 = .ok .rdTargetPrev ∧ decode 0b0101010100000000 = .ok .rdSetupDone ∧
      decode 0b0101011000000000 = .ok .rdFseDone := by decide

theorem test_decode_state_read : decode 0b0110000010010001 = .ok (.rdState 0x91) := by decide

/-- Section 3.1: unassigned opcodes. -/
theorem test_decode_unassigned :
    decode 0x0300 = .error (.unassignedOpcode 0x03) ∧ decode 0x2100 = .error (.unassignedOpcode 0x21) ∧
      decode 0x5700 = .error (.unassignedOpcode 0x57) ∧ decode 0xFFFF = .error (.unassignedOpcode 0xFF) := by decide

/-- Section 3.1: formats N, E and B with a reserved bit set. -/
theorem test_decode_reserved_bits :
    decode 0x1001 = .error (.reservedBits 0x10 0x01) ∧ decode 0x4020 = .error (.reservedBits 0x40 0x20) ∧
      decode 0x41FF = .error (.reservedBits 0x41 0xFF) ∧ decode 0x5102 = .error (.reservedBits 0x51 0x02) ∧
      decode 0x52FE = .error (.reservedBits 0x52 0xFE) := by decide

theorem test_decodeTableWord :
    decodeTableWord 16 0x304B = some (.getKp 75) ∧ decodeTableWord 16 0x1101 = none ∧
      decodeTableWord 16 0x40FF = none := by decide

/-! ### One step of each command -/

/-- Section 3.2. -/
theorem test_directionOf :
    (after (.directionOf 0x7F) State.reset).respC = some ⟨.ok, 0⟩ ∧
      (after (.directionOf 0x80) (atD State.reset)).respD = some ⟨.ok, 1⟩ := by decide +kernel

/-- Section 2.2. -/
theorem test_tableIndexOf :
    (after (.tableIndexOf 0x81) State.reset).respC = some ⟨.ok, 0⟩ ∧
      (after (.tableIndexOf 0xFF) State.reset).respC = some ⟨.ok, 0x7E⟩ := by decide +kernel

/-- Sections 2.2 and 3.2. -/
theorem test_decodeStep :
    (after (.decodeStep 0x81) State.reset).respC = some ⟨.ok, 0x00014080⟩ ∧
      (after (.decodeStep 0xFE) State.reset).respC = some ⟨.ok, 0x0001BF7D⟩ := by decide +kernel

/-- Section 1.2: the derived registers and the events of the boot. -/
theorem test_init_loads :
    booted.respC = some ⟨.ok, 0⟩ ∧ booted.events = [.setPwm 0, .enableDrive] ∧ booted.pid.m1 = F32.ofBits 0x3CA3D70A ∧
      booted.pid.m2 = F32.ofBits 0xBCF5C28F ∧ booted.pid.ci0 = F32.ofBits 0x3C800000 ∧
      booted.pid.cd0 = F32.ofBits 0x41800000 ∧ booted.pid.cd1 = F32.ofBits 0x3F000000 := by decide +kernel

/-- Section 3.6: `l = r = 200`, `n = 255`; the sum 400 is not wrapped to 144. -/
theorem test_init_refuses_cutoffs :
    let t := after .init
      { ready with cv := { cfg1 with totalIterations := 255, leftCutoff := 200, rightCutoff := 200 } }
    t.respC = some ⟨.fault, 0⟩ ∧ t.errorState = 0x20 ∧ t.initialised = false ∧ t.events = [] := by decide +kernel

/-- Section 3.4, sequence S1, tick 3. -/
theorem test_ctrlTick_handoff :
    let s := departing 5
    let t := after .ctrlTick { s with startup := { s.startup with level := 400, seeded := true } }
    t.respC = some ⟨.ok, 0x000101F4⟩ ∧ t.feedForward = F32.ofBits 0x437A0000 ∧ t.startup.history[0] = 500 ∧
      t.startup.histIdx = 1 ∧ t.startup.histCount = 1 ∧ t.events.getLast? = some (.setPwm 500) := by decide +kernel

/-- Section 3.5, sequence A, tick 1 (R197). -/
theorem test_ctrlTick_pid :
    let t := after .ctrlTick (controlling 0x43FA0000 (good (.replicate 10 560)))
    t.respC = some ⟨.ok, 0x0001054B⟩ ∧ t.pid.e = F32.ofBits 0x42480000 ∧ t.pid.kP = F32.ofBits 0x3F8CCCCD ∧
      t.pid.iPrev = F32.ofBits 0x3F480000 ∧ t.pid.dPrev = F32.ofBits 0x44480000 ∧
      t.meas.corrected = F32.ofBits 0x44098000 := by decide +kernel

/-- Section 3.6. -/
theorem test_rampTick :
    (after .rampTick { booted with setpoint := 126, target := { w := 0, r := 0 } }).respC = some ⟨.ok, 0x7D⟩ ∧
      (after .rampTick { booted with setpoint := 125, target := { w := 0, r := 0xFF } }).respC =
        some ⟨.ok, 0x7E⟩ := by decide +kernel

/-- Section 2.1, scenario A. -/
theorem test_measure_mean :
    let t := after (.measure 1) (sampling (good scenarioA))
    t.respC = some ⟨.ok, 0x40B00000⟩ ∧
      t.events = booted.events ++ [.disableDrive, .waitUs 100] ++
        List.replicate 10 (.readAdc booted.params.senseForward) ++ [.enableDrive] := by decide +kernel

/-- Section 3.3: an invalid direction code and a sample fault, bits 3 and 6. -/
theorem test_measure_faults :
    let t := after (.measure 7) (sampling firstFaulted)
    t.respC = some ⟨.fault, 0⟩ ∧ t.errorState = 0x48 ∧ t.driveEnabled = true := by decide +kernel

/-- Sections 2.3 and 3.5: segments (c) and (b). -/
theorem test_getKp :
    (after (.getKp 75) booted).respC = some ⟨.ok, 0x3FA00000⟩ ∧
      (after (.getKp 49) booted).respC = some ⟨.ok, 0x3FFD70A4⟩ := by decide +kernel

/-- Section 3.5: with `x1_shift = -10.0` the subtraction adds, and at 90 the gain is `y2`. -/
theorem test_getKp_shifted :
    let s := { booted with pid := { booted.pid with x1Shift := F32.ofBits 0xC1200000 } }
    (after (.getKp 0) s).respC = some ⟨.ok, 0x3F99999A⟩ ∧ (after (.getKp 89) s).respC = some ⟨.ok, 0x3F07AE16⟩ ∧
      (after (.getKp 90) s).respC = some ⟨.ok, 0x3F000000⟩ := by decide +kernel

/-- Section 3.4: three populated slots; an empty history. -/
theorem test_getInitialLevel :
    (after .getInitialLevel (learned [10000, 20000, 40000] 3)).respC = some ⟨.ok, 0x46730E3A⟩ ∧
      (after .getInitialLevel (learned [] 0)).respC = some ⟨.ok, 0⟩ := by decide +kernel

/-- Section 3.7, line 36. -/
theorem test_setError :
    (after (.setError 31) { State.reset with errorState := 0x00000005 }).respC = some ⟨.ok, 0x80000005⟩ := by
  decide +kernel

/-- Section 3.7, lines 41 and 42: clearing a clear bit changes nothing. -/
theorem test_clearError :
    (after (.clearError 0) (atD { State.reset with errorState := 0x80000005 })).respD = some ⟨.ok, 0x80000004⟩ ∧
      (after (.clearError 0) (atD { State.reset with errorState := 0x80000004 })).respD = some ⟨.ok, 0x80000004⟩ := by
  decide +kernel

/-- Section 3.7, line 45. -/
theorem test_clearAllErrors :
    let t := after .clearAllErrors { State.reset with errorState := 0x14 }
    t.respC = some ⟨.ok, 0⟩ ∧ t.errorState = 0 := by decide +kernel

/-- Section 3.7, line 39. -/
theorem test_getErrorState :
    let t := after .getErrorState (atD { State.reset with errorState := 0x80000005 })
    t.respD = some ⟨.ok, 0x80000005⟩ ∧ t.errorState = 0x80000005 := by decide +kernel

/-- Section 3.7, line 10: the old target moves even where it was never seen by the reader. -/
theorem test_wrTarget :
    let t := after (.wrTarget 0x05) (atD { State.reset with target := { w := 0x00, r := 0x8A }, prev := { w := 0x8A, r := 0 } })
    t.target = { w := 0x05, r := 0x8A } ∧ t.prev = { w := 0x00, r := 0 } ∧ t.respD = some ⟨.ok, 0⟩ := by
  decide +kernel

/-- Section 3.7, lines 19 to 21. -/
theorem test_wrSetupDone :
    let t := after (.wrSetupDone true) (atD State.reset)
    t.setup = { w := true, r := false } ∧ t.respD = some ⟨.ok, 0⟩ := by decide +kernel

/-- Section 3.7, lines 25 to 28, and section 3.1: `DENIED` on port D. -/
theorem test_wrFseDone :
    let t := after (.wrFseDone true) State.reset
    t.fse = { w := true, r := false } ∧ t.respC = some ⟨.ok, 0⟩ ∧
      (after (.wrFseDone true) (atD State.reset)).respD = some ⟨.denied, 0⟩ := by decide +kernel

/-- Section 3.7, lines 3 and 4. -/
theorem test_rdTarget :
    let s := { State.reset with target := { w := 0x8A, r := 0 } }
    (after .rdTarget (atD s)).respD = some ⟨.ok, 0x8A⟩ ∧ (after .rdTarget s).respC = some ⟨.ok, 0⟩ := by decide +kernel

/-- Section 3.7, line 18 (port D reads the writer's copy); port C reads the reader's. -/
theorem test_rdTargetPrev :
    let s := { State.reset with prev := { w := 0x05, r := 0x00 } }
    (after .rdTargetPrev (atD s)).respD = some ⟨.ok, 0x05⟩ ∧ (after .rdTargetPrev s).respC = some ⟨.ok, 0⟩ := by
  decide +kernel

/-- Section 3.7, lines 20 and 21. -/
theorem test_rdSetupDone :
    let s := { State.reset with setup := { w := true, r := false } }
    (after .rdSetupDone (atD s)).respD = some ⟨.ok, 1⟩ ∧ (after .rdSetupDone s).respC = some ⟨.ok, 0⟩ := by
  decide +kernel

/-- Section 3.7, lines 26 and 28: port C is the writer. -/
theorem test_rdFseDone :
    let s := { State.reset with fse := { w := true, r := false } }
    (after .rdFseDone (atD s)).respD = some ⟨.ok, 0⟩ ∧ (after .rdFseDone s).respC = some ⟨.ok, 1⟩ := by decide +kernel

/-- Section 1.2: a table entry, a derived register, a sampler count, the ready flag. -/
theorem test_rdState :
    (after (.rdState 0x7E) booted).respC = some ⟨.ok, 0x00003138⟩ ∧
      (after (.rdState 0xB7) booted).respC = some ⟨.ok, 0xBCF5C28F⟩ ∧
      (after (.rdState 0xC5) booted).respC = some ⟨.ok, 0x0000000A⟩ ∧
      (after (.rdState 0xD2) booted).respC = some ⟨.ok, 1⟩ := by decide +kernel

/-- Section 3.1: a reserved index on the wrong port is `ILLEGAL`, a register on the wrong port `DENIED`. -/
theorem test_rdState_wrong_port :
    (stepped (given (.command .d 0x607F) State.reset)).respD = some ⟨.illegal, 0⟩ ∧
      (stepped (given (.command .d 0x6090) State.reset)).respD = some ⟨.denied, 0⟩ := by decide +kernel

/-- R149 by hand where R151 (c) differs (log entry 23): `129 * 16777215` rounds to `129 * 2^24 - 256`, and that over 129
rounds to 16777214; below `2^24` equal samples give their value (section 3.3, 560.0). -/
theorem test_trimmedMean_equal_samples :
    trimmedMean (List.replicate 129 16777215) 0 0 = i2f 16777214 ∧ (trimmedMean (List.replicate 10 560) 0 0).bits = 0x440C0000 := by
  decide +kernel

/-- R262: the owner's side sets and clears a bit, the other side neither, the supervisor clears where the other side is
idle. -/
theorem test_ownersRespected :
    let owner (b : BitVec 5) : Port := if b = 2 ∨ b = 4 then .d else .c
    let host (p : Port) (w : U16) : Issued := { input := .command p w, bySupervisor := false, otherSideIdle := true }
    let supervisor (w : U16) (otherSideIdle : Bool) : Issued :=
      { input := .command .d w, bySupervisor := true, otherSideIdle }
    ownersRespected owner [host .d 0x4002, host .c 0x4000, host .d 0x4102, host .c 0x4106, supervisor 0x4200 true] = true ∧
      ownersRespected owner [host .d 0x4000] = false ∧ ownersRespected owner [host .c 0x4102] = false ∧
      ownersRespected owner [host .d 0x4200] = false ∧ ownersRespected owner [supervisor 0x4106 false] = false := by
  decide +kernel

/-- R78 (a): two ticks are bounded with the three `SYNC`s between them and not with two. -/
theorem test_stalenessBounded :
    stalenessBounded [.command .c 0x1100, .sync .target, .sync .prev, .sync .setup, .command .c 0x1100] = true ∧
      stalenessBounded [.command .c 0x1100, .sync .target, .sync .prev, .command .c 0x1100] = false := by
  decide +kernel

/-- R78 (b): a schedule that writes the flag and later takes `SYNC(fse)` is fair, one that never does is not. -/
theorem test_fseFair :
    Schedule.Fair (fun k => if k = 0 then .command .c 0x5201#16 else .sync .fse) ∧
      ¬ Schedule.fseFair (fun k => if k = 0 then .command .c 0x5201#16 else .sync .target) := by
  refine ⟨⟨fun n => ?_, fun n _ => ⟨n + 1, by omega, by simp⟩⟩, fun h => ?_⟩
  · have calm (f : SharedField) (l : List Nat) : freshBetweenTicks f true
        (l.map fun k => if k = 0 then .command .c 0x5201#16 else .sync .fse) = true := by
      induction l with
      | nil => rfl
      | cons k l ih =>
        by_cases hk : k = 0
        · have : decode 0x5201#16 ≠ .ok .ctrlTick := by decide +kernel
          simpa [hk, freshBetweenTicks, this] using ih
        · simpa [hk, freshBetweenTicks] using ih
    simp [stalenessBounded, Schedule.firstInputs, calm _ (List.range n)]
  · obtain ⟨m, hm, hx⟩ := h 0 (by decide +kernel)
    have : m ≠ 0 := by omega
    simp [this] at hx

/-- A placed word is the next that a step runs. -/
theorem test_withFetchWord :
    (stepped (State.withFetchWord State.reset 16 0x508A)).target.w = 0x8A ∧
      (stepped (State.withFetchWord State.reset 16 0x3000)).respC = some ⟨.ok, 0⟩ := by decide +kernel

/-- The listing syntax (R121, R122), with the words of section 3.7 and program P1. -/
theorem test_assemble :
    assemble ["D: WR_TARGET 0x8A ; a comment", "SYNC target", "C: SET_ERROR PWM_INIT_FAILURE", "ADC 560, 560!",
        "D: .word 0x1101", "C: SET_ERROR_MASK 0x5", "D: WR_TARGET_DS 1, 10"] =
      some [.command .d 0x508A, .sync .target, .command .c 0x4000,
        .adc [{ sample := 560, fault := false }, { sample := 560, fault := true }], .command .d 0x1101,
        .command .c 0x4000, .command .c 0x4002, .command .d 0x508A] := by decide +kernel

/-! ### Witnesses: states and operands that meet the hypotheses of the statements -/

theorem witness_DecodingTheEncodingGivesTheCommand :
    (Instr.rdState 0xD4).wf = true ∧ (Instr.setError 31).wf = true ∧ (Instr.wrSetupDone true).wf = true := by decide

theorem witness_DecodedWordIsTheEncodingOfItsCommand :
    decode 0x60D4 = .ok (.rdState 0xD4) ∧ decode 0x401F = .ok (.setError 31) := by decide

theorem witness_IllegalWordsChangeNothing :
    (¬ ∃ i, decode 0x0300 = .ok i) ∧ (¬ ∃ i, decode 0x60D5 = .ok i) ∧
      (given (.command .d 0x0300) booted).inputs = .command .d 0x0300 :: [] := by
  have h : decode 0x0300 = .error (.unassignedOpcode 0x03) ∧ decode 0x60D5 = .error (.reservedRegister 0xD5) := by
    decide
  exact ⟨fun ⟨_, hi⟩ => (nomatch hi.symm.trans h.1), fun ⟨_, hi⟩ => (nomatch hi.symm.trans h.2), rfl⟩

/-- A command on each wrong port, and one on a port that may use it. -/
theorem witness_WrongPortIsDenied :
    ((Instr.wrTarget 0).wf = true ∧ booted.port = .c) ∧ ((Instr.rdState 0).wf = true ∧ (atD booted).port = .d) ∧
      Instr.rampTick.wf = true ∧ Instr.rampTick ≠ .init := by decide +kernel

theorem witness_StepRunsTheDecodedCommand :
    (given (.command .d 0x508A) booted).inputs = .command .d 0x508A :: [] ∧ decode 0x508A = .ok (.wrTarget 0x8A) := by
  decide +kernel

theorem witness_StepOfTheOtherInputs :
    booted.inputs = [] ∧ (given (.cvStore cfg1) booted).inputs = .cvStore cfg1 :: [] ∧
      (given (.adc (good scenarioA)) booted).inputs = .adc (good scenarioA) :: [] := by decide +kernel

theorem witness_PlacedWordIsTheNextRun : (Instr.wrSetupDone false).wf = true ∧ (Instr.rdState 0).wf = true := by decide

/-- A word answered with a refusal, and one answered `OK`. -/
theorem witness_EveryWordReturnsOneResponse :
    (given (.command .c 0x1100) State.reset).inputs = .command .c 0x1100 :: [] ∧
      (stepped (given (.command .c 0x1100) State.reset)).respC = some ⟨.notReady, 0⟩ ∧
      (stepped (given (.command .c 0x0080) State.reset)).respC = some ⟨.ok, 1⟩ := by decide +kernel

theorem witness_WrTargetMovesTheOldTarget : (atD booted).port = .d ∧ booted.port = .c := by decide +kernel

theorem witness_HandshakeWritesTheWritersCopy : (atD booted).port = .d ∧ booted.port = .c := by decide +kernel

theorem witness_SharedReadsAreOfThePortsCopy : (atD booted).port = .d ∧ booted.port = .c := by decide +kernel

theorem witness_SyncCopiesOneField :
    ∀ f ∈ [SharedField.target, .prev, .setup, .fse], (given (.sync f) booted).inputs = .sync f :: [] := by
  decide +kernel

/-- A state with every shared field's two copies apart. -/
def stale : State :=
  { booted with
    target := { w := 1, r := 2 }, prev := { w := 3, r := 4 }, setup := { w := true, r := false }
    fse := { w := true, r := false } }

/-- For each clause a step that is not of reset and changes the copy. -/
theorem witness_OnlyOwnersAndSyncsChangeSharedFields :
    (∀ x ∈ [Input.command .d 0x508A, .command .d 0x5100, .command .c 0x5200, .sync .target, .sync .prev, .sync .setup,
        .sync .fse], step (given x stale) = .next (stepped (given x stale)) ∧ (given x stale).inputs.head? ≠ some .reset) ∧
      (stepped (given (.command .d 0x508A) stale)).target.w ≠ stale.target.w ∧
      (stepped (given (.command .d 0x508A) stale)).prev.w ≠ stale.prev.w ∧
      (stepped (given (.command .d 0x5100) stale)).setup.w ≠ stale.setup.w ∧
      (stepped (given (.command .c 0x5200) stale)).fse.w ≠ stale.fse.w ∧
      (stepped (given (.sync .target) stale)).target.r ≠ stale.target.r ∧
      (stepped (given (.sync .prev) stale)).prev.r ≠ stale.prev.r ∧
      (stepped (given (.sync .setup) stale)).setup.r ≠ stale.setup.r ∧
      (stepped (given (.sync .fse) stale)).fse.r ≠ stale.fse.r := by
  refine ⟨fun x hx => ⟨step_next _, ?_⟩, by decide +kernel⟩
  simp only [List.mem_cons, List.not_mem_nil, or_false] at hx
  rcases hx with rfl | rfl | rfl | rfl | rfl | rfl | rfl <;> simp [given]

theorem witness_PortDTouchesOnlySharedState :
    (given (.command .d 0x508A) stale).inputs = .command .d 0x508A :: [] ∧
      step (given (.command .d 0x508A) stale) = .next (stepped (given (.command .d 0x508A) stale)) :=
  ⟨rfl, step_next _⟩

/-- A set bit that each of the four ways clears. -/
theorem witness_ErrorBitsStayUntilCleared :
    ∀ x ∈ [Input.command .d 0x4106, .command .c 0x4200, .reset],
      step (given x { booted with errorState := 0x40 }) = .next (stepped (given x { booted with errorState := 0x40 })) ∧
        (0x40 : U32).getLsbD 6 = true ∧
        (stepped (given x { booted with errorState := 0x40 })).errorState.getLsbD 6 = false := by
  intro x hx
  refine ⟨step_next _, by decide, ?_⟩
  simp only [List.mem_cons, List.not_mem_nil, or_false] at hx
  rcases hx with rfl | rfl | rfl <;> decide +kernel

/-- A clear bit that each of the listed causes sets: `SET_ERROR`, an invalid direction, a record `INIT` refuses, a broken
contract in `MEASURE` and in a tick, a sample fault in `MEASURE` and in a tick. -/
theorem witness_OnlyListedCausesSetErrorBits :
    (∀ s ∈ [given (.command .d 0x4002) booted, given (.command .c 0x2007) (sampling (good scenarioA)),
        given (.command .c 0x1000) { ready with cv := CvConfig.blank }, given (.command .c 0x2001) State.reset,
        given (.command .c 0x1100) { controlling 0 [] with bemf := State.reset.bemf },
        given (.command .c 0x2001) (sampling firstFaulted), given (.command .c 0x1100) (controlling 0 firstFaulted)],
      step s = .next (stepped s) ∧ s.errorState = 0) ∧
      (stepped (given (.command .d 0x4002) booted)).errorState.getLsbD 2 = true ∧
      (stepped (given (.command .c 0x2007) (sampling (good scenarioA)))).errorState.getLsbD 3 = true ∧
      (stepped (given (.command .c 0x1000) { ready with cv := CvConfig.blank })).errorState.getLsbD 5 = true ∧
      (stepped (given (.command .c 0x2001) State.reset)).errorState.getLsbD 5 = true ∧
      (stepped (given (.command .c 0x1100) { controlling 0 [] with bemf := State.reset.bemf })).errorState.getLsbD 5 =
        true ∧
      (stepped (given (.command .c 0x2001) (sampling firstFaulted))).errorState.getLsbD 6 = true ∧
      (stepped (given (.command .c 0x1100) (controlling 0 firstFaulted))).errorState.getLsbD 6 = true := by
  refine ⟨fun s hs => ⟨step_next _, ?_⟩, by decide +kernel⟩
  simp only [List.mem_cons, List.not_mem_nil, or_false] at hs
  rcases hs with rfl | rfl | rfl | rfl | rfl | rfl | rfl <;> decide +kernel

theorem witness_ErrorStateDecidesNothing :
    (∀ b, Instr.ctrlTick ≠ .setError b) ∧ (∀ b, Instr.ctrlTick ≠ .clearError b) ∧ Instr.ctrlTick ≠ .getErrorState ∧
      Instr.ctrlTick ≠ .rdState 0xD4 ∧ ∃ t, exec .ctrlTick (controlling 0 firstFaulted) = .next t :=
  ⟨nofun, nofun, nofun, nofun, exec_isNext _ _⟩

/-- Scenario A (section 2.1). -/
theorem witness_MeasureReturnsTheTrimmedMean :
    let s := sampling (good scenarioA)
    s.port = .c ∧ (1 : U8).toNat ≤ 1 ∧ s.adcAnswers = good scenarioA ++ [] ∧
      (good scenarioA).length = s.bemf.totalIterations.toNat ∧
      (∀ a ∈ good scenarioA, a.fault = false ∧ a.sample < 2 ^ (s.params.adcBitsPred.val + 1)) ∧
      ([1, 2] ++ [3, 4, 5, 6, 7, 8] ++ [9, 10]).Perm ((good scenarioA).map AdcAnswer.sample) ∧
      ([1, 2] ++ [3, 4, 5, 6, 7, 8] ++ [9, 10]).Pairwise (· ≤ ·) ∧ [1, 2].length = s.bemf.leftCutoff.toNat ∧
      [9, 10].length = s.bemf.rightCutoff.toNat ∧ [3, 4, 5, 6, 7, 8] ≠ [] ∧
      s.bemf.totalIterations.toNat ≤ s.params.maxSamplesPred.val + 1 := by decide +kernel

theorem witness_MeasureRestoresTheDrive :
    booted.port = .c ∧ (0 : U8).toNat ≤ 1 ∧
      booted.bemf.leftCutoff.toNat + booted.bemf.rightCutoff.toNat < booted.bemf.totalIterations.toNat ∧
      booted.bemf.totalIterations.toNat ≤ booted.params.maxSamplesPred.val + 1 := by decide +kernel

/-- Each disjunct: `l + r = n` at its boundary, and one sample more than the buffer holds. -/
theorem witness_MeasureFaultsOnABrokenContract :
    State.reset.port = .c ∧ (1 : U8).toNat ≤ 1 ∧
      State.reset.bemf.totalIterations.toNat ≤ State.reset.bemf.leftCutoff.toNat + State.reset.bemf.rightCutoff.toNat ∧
      (let s := { booted with params := { State.reset.params with maxSamplesPred := 8 } }
      s.params.maxSamplesPred.val + 1 < s.bemf.totalIterations.toNat) := by decide +kernel

theorem witness_MeasureFaultsOnASampleFault :
    let s := sampling firstFaulted
    s.port = .c ∧ (1 : U8).toNat ≤ 1 ∧
      s.bemf.leftCutoff.toNat + s.bemf.rightCutoff.toNat < s.bemf.totalIterations.toNat ∧
      s.bemf.totalIterations.toNat ≤ s.params.maxSamplesPred.val + 1 ∧ s.adcAnswers = firstFaulted ++ [] ∧
      firstFaulted.length = s.bemf.totalIterations.toNat ∧ ∃ a ∈ firstFaulted, a.fault = true := by decide +kernel

/-- The smallest and the largest invalid code, with either default direction. -/
theorem witness_MeasureWithAnInvalidDirection :
    booted.port = .c ∧ booted.params.defaultDirection = .forward ∧ 2 ≤ (2 : U8).toNat ∧ 2 ≤ (0xFF : U8).toNat ∧
      (let s := { booted with params := { booted.params with defaultDirection := .reverse } }
      s.port = .c ∧ s.params.defaultDirection ≠ .forward) := by decide +kernel

theorem witness_TrimmedMeanLiesWithinTheKeptSamples :
    let kept := [3, 4, 5, 6, 7, 8]
    kept ≠ [] ∧ kept.length ≤ 255 ∧ kept.sum < 2 ^ 24 ∧ 3 ∈ kept ∧ 8 ∈ kept ∧ ∀ v ∈ kept, 3 ≤ v ∧ v ≤ 8 := by decide

/-- An empty, a partly filled and a full ring. -/
theorem witness_GetInitialLevelAveragesThePopulatedSlots :
    (learned [] 0).port = .c ∧ (learned [] 0).startup.histCount.val = 0 ∧ (learned [500] 1).port = .c ∧
      (learned [500] 16).startup.histCount.val = 16 ∧ (atD booted).port = .d := by decide +kernel

/-- Sequence S2, tick 1, a seeding tick, and sequence S1, tick 2 (section 3.4): both stay below the ceiling 500. -/
theorem witness_StartupTickRampsUpToTheCeiling :
    ∀ s ∈ [{ learned [500] 1 with setpoint := 5 },
        { departing 5 with startup := { booted.startup with level := 0, seeded := true } }],
      s.port = .c ∧ s.initialised = true ∧ s.setpoint ≠ 0 ∧ s.mode = .startup ∧
        min (if s.startup.seeded then s.startup.level.toNat + s.startup.rampStep.toNat
            else (truncU16 s.startup.initialLevel).toNat)
          (min s.speedTable[s.setpoint].toNat (truncU16 s.pid.maxOutput).toNat) <
          min s.speedTable[s.setpoint].toNat (truncU16 s.pid.maxOutput).toNat := by decide +kernel

/-- Sequence S3, a seed above the ceiling, and sequence S1, tick 3 (section 3.4). -/
theorem witness_HandoffRecordsTheLevelAndEntersPid :
    ∀ s ∈ [{ learned [500] 1 with setpoint := 1 },
        { departing 5 with startup := { booted.startup with level := 400, seeded := true } }],
      s.port = .c ∧ s.initialised = true ∧ s.setpoint ≠ 0 ∧ s.mode = .startup ∧
        min s.speedTable[s.setpoint].toNat (truncU16 s.pid.maxOutput).toNat ≤
          (if s.startup.seeded then s.startup.level.toNat + s.startup.rampStep.toNat
            else (truncU16 s.startup.initialLevel).toNat) := by decide +kernel

/-- The four segments at their boundaries: 0, 49, 50 and 99, 100 (section 3.5). -/
theorem witness_GetKpFollowsTheSegments :
    let x (vv : U8) := fsub (i2f vv.toNat) booted.pid.x1Shift
    booted.port = .c ∧ (atD booted).port = .d ∧ fle (x 0) (F32.ofBits 0) = true ∧
      (fle (x 1) (F32.ofBits 0) = false ∧ flt (x 1) booted.pid.x1 = true) ∧
      (fle (x 49) (F32.ofBits 0) = false ∧ flt (x 49) booted.pid.x1 = true) ∧
      (fle (x 50) (F32.ofBits 0) = false ∧ flt (x 50) booted.pid.x1 = false ∧ flt (x 50) booted.pid.x2 = true) ∧
      (fle (x 99) (F32.ofBits 0) = false ∧ flt (x 99) booted.pid.x1 = false ∧ flt (x 99) booted.pid.x2 = true) ∧
      (fle (x 100) (F32.ofBits 0) = false ∧ flt (x 100) booted.pid.x1 = false ∧ flt (x 100) booted.pid.x2 = false) := by
  decide +kernel

theorem witness_GetKpIsExactAtTheBreakpoints :
    let p := booted.pid
    p.x1.isFinite = true ∧ p.y1.isFinite = true ∧ p.m2.isFinite = true ∧ flt (F32.ofBits 0) p.x1 = true ∧
      flt p.x1 p.x2 = true ∧ feq (fsub (i2f 50) p.x1Shift) p.x1 = true ∧
      feq (fsub (i2f 100) p.x1Shift) p.x2 = true := by decide +kernel

/-- What the two statements about a PID tick with known answers ask of the state and the answers. -/
def pidPremises (s : State) (answers : List AdcAnswer) (low kept high : List Nat) : Prop :=
  s.port = .c ∧ s.initialised = true ∧ s.setpoint ≠ 0 ∧ s.mode = .pid ∧ s.adcAnswers = answers ++ [] ∧
    answers.length = s.bemf.totalIterations.toNat ∧
    (∀ a ∈ answers, a.fault = false ∧ a.sample < 2 ^ (s.params.adcBitsPred.val + 1)) ∧
    (low ++ kept ++ high).Perm (answers.map fun a => a.sample) ∧ (low ++ kept ++ high).Pairwise (· ≤ ·) ∧
    low.length = s.bemf.leftCutoff.toNat ∧ high.length = s.bemf.rightCutoff.toNat ∧ kept ≠ [] ∧
    s.bemf.totalIterations.toNat ≤ s.params.maxSamplesPred.val + 1

/-- The NaN test of the two statements, written out for six kept samples of 560 (section 3.5, sequences A and N). -/
def pidSumIsNaN (s : State) : Bool :=
  let m := fdiv (i2f [560, 560, 560, 560, 560, 560].sum) (i2f 6)
  let e := fsub (fsub m s.meas.adcOffset) (i2f s.speedTable[s.setpoint].toNat)
  let i := clamp (fadd s.pid.iPrev (fmul s.pid.ci0 (fadd e s.pid.ePrev))) s.pid.intLimMin s.pid.intLimMax
  let d := fadd (fmul s.pid.cd0 (fsub e s.pid.ePrev)) (fmul s.pid.cd1 s.pid.dPrev)
  (fadd (fadd (fadd (fmul (s.pid.getKp s.setpoint.val) e) i) d) s.feedForward).isNaN

/-- Section 3.5, sequence A, tick 1. -/
theorem witness_PidTickUpdatesFromTheMeasurement :
    let s := controlling 0x43FA0000 (good (.replicate 10 560))
    pidPremises s (good (.replicate 10 560)) [560, 560] [560, 560, 560, 560, 560, 560] [560, 560] ∧
      pidSumIsNaN s = false := by
  refine ⟨?_, by decide +kernel⟩
  unfold pidPremises
  decide +kernel

/-- The state before tick 2 of section 3.5, sequence N. -/
def poisoned : State :=
  let s := controlling 0 (good (.replicate 10 560))
  { s with
    pwmLevel := 20000
    pid :=
      { s.pid with
        ci0 := F32.ofBits 0x3F800000, cd0 := F32.ofBits 0x7CF0BDC2, cd1 := F32.ofBits 0
        ePrev := F32.ofBits 0x42480000, iPrev := F32.ofBits 0x42480000, dPrev := F32.ofBits 0x7F800000 } }

/-- Section 3.5, sequence N, tick 2, with the response the spec gives it. -/
theorem witness_PidTickHoldsOnANaNSum :
    pidPremises poisoned (good (.replicate 10 560)) [560, 560] [560, 560, 560, 560, 560, 560] [560, 560] ∧
      pidSumIsNaN poisoned = true ∧ (after .ctrlTick poisoned).respC = some ⟨.fault, 0x00014E20⟩ := by
  refine ⟨?_, by decide +kernel⟩
  unfold pidPremises
  decide +kernel

/-- The broken contract in both ways, and a sample fault (section 3.5, sequence F, tick 2). -/
theorem witness_PidTickHoldsOnAFault :
    (∀ s ∈ [{ controlling 0 [] with bemf := State.reset.bemf },
        { controlling 0 [] with params := { State.reset.params with maxSamplesPred := 8 } }, controlling 0 firstFaulted],
      s.port = .c ∧ s.initialised = true ∧ s.setpoint ≠ 0 ∧ s.mode = .pid) ∧
      (let s := { controlling 0 [] with params := { State.reset.params with maxSamplesPred := 8 } }
      s.params.maxSamplesPred.val + 1 < s.bemf.totalIterations.toNat) ∧
      (let s := controlling 0 firstFaulted
      s.adcAnswers = firstFaulted ++ [] ∧ firstFaulted.length = s.bemf.totalIterations.toNat ∧
        s.bemf.leftCutoff.toNat + s.bemf.rightCutoff.toNat < s.bemf.totalIterations.toNat ∧
        s.bemf.totalIterations.toNat ≤ s.params.maxSamplesPred.val + 1 ∧ ∃ a ∈ firstFaulted, a.fault = true) := by
  decide +kernel

/-- Section 3.5, sequence A, tick 1, which answers `OK`. -/
theorem witness_PidTickKeepsIntegralAndOutputInBounds :
    let s := controlling 0x43FA0000 (good (.replicate 10 560))
    s.port = .c ∧ s.initialised = true ∧ s.setpoint ≠ 0 ∧ s.mode = .pid ∧
      (after .ctrlTick s).response .c = some ⟨.ok, 0x0001054B⟩ ∧
      (after .ctrlTick s).response .d = s.response .d ∧ fle s.pid.intLimMin s.pid.intLimMax = true ∧
      fle (F32.ofBits 0) s.pid.maxOutput = true ∧ fle s.pid.maxOutput (F32.ofBits 0x477FFF00) = true := by
  decide +kernel

theorem witness_InitLoadsAValidConfig :
    ready.port = .c ∧ ready.initialised = false ∧ ready.setup.r = true ∧
      (let c := ready.cv
      let two := F32.ofBits 0x40000000
      let den := fadd (fmul two c.tau) c.t
      (∀ x ∈ [c.kI, c.kD, c.t, c.tau, c.intLimMin, c.intLimMax, c.maxOutput, c.x1Shift, c.x1, c.x2, c.y0, c.y1, c.y2,
          c.kFf, c.adcOffset, fdiv (fsub c.y1 c.y0) c.x1, fdiv (fsub c.y2 c.y1) (fsub c.x2 c.x1),
          fdiv (fmul c.kI c.t) two, fdiv (fmul two c.kD) den, fdiv (fsub (fmul two c.tau) c.t) den],
        x.isFinite = true) ∧
        flt (F32.ofBits 0) c.x1 = true ∧ flt c.x1 c.x2 = true ∧ fle c.intLimMin c.intLimMax = true ∧
        fle (F32.ofBits 0) c.maxOutput = true ∧ fle c.maxOutput (F32.ofBits 0x477FFF00) = true ∧
        flt (F32.ofBits 0) c.t = true ∧ fle (F32.ofBits 0) c.tau = true ∧
        c.leftCutoff.toNat + c.rightCutoff.toNat < c.totalIterations.toNat ∧
        c.totalIterations.toNat ≤ ready.params.maxSamplesPred.val + 1) := by decide +kernel

/-- Each of the three outcomes, and for `FAULT` each conjunct of R202 failing at a vector of section 3.6. -/
theorem witness_InitRefusesAndFaults :
    booted.initialised = true ∧ (State.reset.initialised = false ∧ State.reset.setup.r = false) ∧
      (ready.initialised = false ∧ ready.setup.r = true) ∧ (F32.ofBits 0x7FC00000).isFinite = false ∧
      (F32.ofBits 0x7F800000).isFinite = false ∧ flt (F32.ofBits 0) (F32.ofBits 0) = false ∧
      flt (F32.ofBits 0x42C80000) cfg1.x2 = false ∧ fle (F32.ofBits 0x447A2000) cfg1.intLimMax = false ∧
      fle (F32.ofBits 0) (F32.ofBits 0xBF800000) = false ∧
      fle (F32.ofBits 0x47800000) (F32.ofBits 0x477FFF00) = false ∧ (10 : U8).toNat ≤ (5 : U8).toNat + (5 : U8).toNat ∧
      (let s := { ready with params := { State.reset.params with maxSamplesPred := 8 } }
      s.params.maxSamplesPred.val + 1 < s.cv.totalIterations.toNat) ∧
      (fdiv (fmul (F32.ofBits 0x7F61B1E6) (F32.ofBits 0x40000000)) (F32.ofBits 0x40000000)).isFinite = false := by
  decide +kernel

/-- Every kind of step after `INIT`. -/
theorem witness_ConfigurationIsFrozenAfterInit :
    ∀ x ∈ [Input.command .c 0x1000, .command .c 0x1100, .cvStore CvConfig.blank, .sync .target],
      (given x booted).initialised = true ∧ (given x booted).inputs.head? ≠ some .reset ∧
        step (given x booted) = .next (stepped (given x booted)) := by
  have h : booted.initialised = true := by decide +kernel
  intro x hx
  refine ⟨h, ?_, step_next _⟩
  simp only [List.mem_cons, List.not_mem_nil, or_false] at hx
  rcases hx with rfl | rfl | rfl | rfl <;> simp [given]

/-- In either mode. -/
theorem witness_StopActionAtSetpointZero :
    ∀ s ∈ [booted, { controlling 0x437A0000 [] with setpoint := 0 }],
      s.port = .c ∧ s.initialised = true ∧ s.setpoint = 0 := by decide +kernel

theorem witness_CtrlTickBeforeInitIsNotReady : State.reset.port = .c ∧ State.reset.initialised = false := by
  decide +kernel

/-- Out of `Pid` by the stop action and by reset, into it by a handoff. -/
theorem witness_ModeChangesOnlyAlongTheGraph :
    ∀ s ∈ [given (.command .c 0x1100) { controlling 0 [] with setpoint := 0 }, given .reset (controlling 0 []),
        given (.command .c 0x1100) { learned [500] 1 with setpoint := 1 }],
      step s = .next (stepped s) ∧ (stepped s).mode ≠ s.mode := by
  intro s hs
  refine ⟨step_next _, ?_⟩
  simp only [List.mem_cons, List.not_mem_nil, or_false] at hs
  rcases hs with rfl | rfl | rfl <;> decide +kernel

/-- Up at the bottom of the table, down at its top, and at the target; before `INIT`; on port D. -/
theorem witness_RampTickMovesOneStepTowardTheTarget :
    (State.reset.port = .c ∧ State.reset.initialised = false) ∧ (atD booted).port = .d ∧ booted.port = .c ∧ booted.initialised = true ∧ (0 : Fin 127).val < (0x82 : U8).toNat % 128 - 1 ∧
      (0x01 : U8).toNat % 128 ≤ 1 ∧ 0 < (126 : Fin 127).val ∧ (126 : Fin 127).val = (0xFF : U8).toNat % 128 - 1 := by
  decide +kernel

theorem witness_RampArrivesAfterItsDistance :
    let s := { booted with target := { w := 0xFF, r := 0xFF }, inputs := List.replicate 126 (.command .c 0x1200) }
    s.initialised = true ∧ s.inputs = List.replicate 126 (.command .c 0x1200) ++ [] ∧ s.setpoint.val + 126 = 126 := by
  decide +kernel

theorem witness_RdStateReadsEveryRegister : booted.port = .c := by decide +kernel

/-- Both ends of each reserved range. -/
theorem witness_RdStateOfAReservedNumberIsIllegal :
    ∀ xx ∈ [(0x7F : U8), 0x9C, 0x9F, 0xAF, 0xB8, 0xBF, 0xC9, 0xCF, 0xD5, 0xFF],
      xx = 0x7F ∨ (0x9C ≤ xx.toNat ∧ xx.toNat ≤ 0x9F) ∨ xx = 0xAF ∨ (0xB8 ≤ xx.toNat ∧ xx.toNat ≤ 0xBF) ∨
        (0xC9 ≤ xx.toNat ∧ xx.toNat ≤ 0xCF) ∨ 0xD5 ≤ xx.toNat := by decide

/-- Both ends of each range of numbers that are not reserved. -/
theorem witness_ResetLeavesEveryRegisterZero :
    ∀ xx ∈ [(0x00 : U8), 0x7E, 0x80, 0x9B, 0xA0, 0xAE, 0xB0, 0xB7, 0xC0, 0xC8, 0xD0, 0xD4],
      reservedIndex xx = false := by decide

theorem witness_ResetEventRestoresTheResetState :
    (given .reset (controlling 0x437A0000 firstFaulted)).inputs = .reset :: [] := rfl

/-- The invariant of a state after boot, with a tick to take. -/
theorem witness_EveryStepKeepsTheInvariant :
    (given (.command .c 0x1100) booted).Inv ∧
      step (given (.command .c 0x1100) booted) = .next (stepped (given (.command .c 0x1100) booted)) := by
  refine ⟨⟨by decide +kernel, by decide +kernel, by decide +kernel, by decide +kernel, by decide +kernel,
    by decide +kernel, by decide +kernel, fun _ => ⟨by decide +kernel, by decide +kernel, by decide +kernel,
      by decide +kernel, by decide +kernel, by decide +kernel, by decide +kernel⟩, fun h => ?_⟩, step_next _⟩
  exact absurd h (by decide +kernel)

/-- A step that makes the history grow and one that does not. -/
theorem witness_EventsAreOnlyAppended :
    ∀ s ∈ [given (.command .c 0x1100) booted, given (.command .c 0x1200) booted],
      step s = .next (stepped s) ∧ s.inputs.head? ≠ some .reset := by
  intro s hs
  refine ⟨step_next _, ?_⟩
  simp only [List.mem_cons, List.not_mem_nil, or_false] at hs
  rcases hs with rfl | rfl <;> simp [given]

/-- A sum that is exact, a tie that goes to an even last bit (`2^24 + 1`), and one that overflows. -/
theorem witness_FaddRoundsToNearestEven :
    (i2f 3).isFinite = true ∧ (fadd (i2f 3) (i2f 4)).isFinite = true ∧ (fadd (i2f 3) (i2f 4)).value = (i2f 7).value ∧
      ((fadd (i2f (2 ^ 24)) (i2f 1)).value - ((i2f (2 ^ 24)).value + (i2f 1).value)).natAbs =
        ((i2f (2 ^ 24 + 2)).value - ((i2f (2 ^ 24)).value + (i2f 1).value)).natAbs ∧
      (i2f (2 ^ 24 + 2)).value ≠ (fadd (i2f (2 ^ 24)) (i2f 1)).value ∧ (F32.ofBits 0x7F7FFFFF).isFinite = true ∧
      (fadd (F32.ofBits 0x7F7FFFFF) (F32.ofBits 0x7F7FFFFF)).isFinite = false := by decide +kernel

/-- Finite operands with finite and with overflowing results; `y` is a finite value as near to a quotient as the result
is (the halves of the smallest positive value tie). -/
theorem witness_FmulAndFdivRoundToNearest :
    (i2f 2).isFinite = true ∧ (i2f 3).isFinite = true ∧ (fmul (i2f 2) (i2f 3)).isFinite = true ∧ (i2f 3).value ≠ 0 ∧
      (fdiv (i2f 2) (i2f 3)).isFinite = true ∧ (F32.ofBits 0x7F7FFFFF).isFinite = true ∧
      (fmul (F32.ofBits 0x7F7FFFFF) (i2f 2)).isFinite = false ∧ (F32.ofBits 1).value ≠ 0 ∧
      (fdiv (i2f 2) (F32.ofBits 1)).isFinite = false ∧
      (let n := (F32.ofBits 1).value * (i2f 2).value.sign * 2 ^ 149
      ((fdiv (F32.ofBits 1) (i2f 2)).value * (i2f 2).value.natAbs - n).natAbs =
        ((F32.ofBits 1).value * (i2f 2).value.natAbs - n).natAbs) := by decide +kernel

/-- The last number below `2^24`, numbers that tie and overflow, NaN, the zeros, finite values and the infinities. -/
theorem witness_ConversionAndComparisons :
    2 ^ 24 - 1 < 2 ^ 24 ∧ (i2f (2 ^ 24 + 1)).isFinite = true ∧ (i2f (2 ^ 128)).isFinite = false ∧
      (F32.ofBits 0x7FC00000).isNaN = true ∧ (F32.ofBits 0x80000000).isFinite = true ∧
      (F32.ofBits 0x7F7FFFFF).isFinite = true ∧ (F32.ofBits 0x7F7FFFFF).isNaN = false ∧
      (F32.ofBits 0x7F800000).isNaN = false ∧ (F32.ofBits 0xFF800000).isNaN = false := by decide +kernel

/-- A difference that is exact, one that overflows, and a tie (`2^24 - (-1)`). -/
theorem witness_FsubRoundsToNearestEven :
    (i2f 3).isFinite = true ∧ (i2f 4).isFinite = true ∧ (fsub (i2f 3) (i2f 4)).isFinite = true ∧
      (F32.ofBits 0xFF7FFFFF).isFinite = true ∧ (fsub (F32.ofBits 0x7F7FFFFF) (F32.ofBits 0xFF7FFFFF)).isFinite = false ∧
      (F32.ofBits 0xBF800000).isFinite = true ∧
      (let n := (i2f (2 ^ 24)).value - (F32.ofBits 0xBF800000).value
      ((fsub (i2f (2 ^ 24)) (F32.ofBits 0xBF800000)).value - n).natAbs = ((i2f (2 ^ 24 + 2)).value - n).natAbs) := by
  decide +kernel

/-- Below, above and between the bounds, a NaN, and both ends of `trunc_u16`'s domain. -/
theorem witness_ClampAndTruncation :
    flt (i2f 1) (i2f 2) = true ∧ (flt (i2f 5) (i2f 2) = false ∧ flt (i2f 3) (i2f 5) = true) ∧
      (flt (i2f 2) (i2f 2) = false ∧ flt (i2f 3) (i2f 2) = false) ∧ (F32.ofBits 0x7FC00000).isNaN = true ∧
      ((i2f 2).isNaN = false ∧ fle (i2f 2) (i2f 3) = true) ∧
      (fle (F32.ofBits 0) (F32.ofBits 0x80000000) = true ∧
        fle (F32.ofBits 0x80000000) (F32.ofBits 0x477FFF00) = true) ∧
      fle (F32.ofBits 0) (F32.ofBits 0x477FFF00) = true ∧
      fle (F32.ofBits 0x477FFF00) (F32.ofBits 0x477FFF00) = true := by decide +kernel

theorem witness_PseudoCommandsExpand :
    (Instr.setError 31 ∈ setErrorMask 0x80000001 ∧ (0x80000001 : U32).getLsbD (31 : BitVec 5).toNat = true) ∧
      ({ booted with
          inputs := (setErrorMask 0x80000001).map fun i => .command .d (encode i) } : State).inputs =
        (setErrorMask 0x80000001).map (fun i => .command .d (encode i)) ++ [] := by decide +kernel

end Sys2Proof.Tests
end

/-! PROOFS. The statements on the scope's rules (spec/00_scope.md): binary32 arithmetic (R18 to R21) and what the decode
core may change at port D (R10, R80). -/

namespace Sys2Proof

/-! ### Finite values, their signs and their units -/

theorem F32.isNaN_of_isFinite {x : F32} (h : x.isFinite = true) : x.isNaN = false := by
  rw [F32.isFinite_iff] at h
  rw [F32.isNaN_false_iff]
  omega

theorem F32.isInf_of_isFinite {x : F32} (h : x.isFinite = true) : x.isInf = false := by
  rw [F32.isFinite_iff] at h
  rw [Bool.eq_false_iff, Ne, F32.isInf_iff]
  omega

@[simp] theorem F32.natAbs_value (x : F32) : x.value.natAbs = x.units := by
  unfold F32.value
  split <;> simp

@[simp] theorem F32.value_negate (x : F32) : x.negate.value = -x.value := by
  have hneg : x.negate.neg = !x.neg := rfl
  have hunits : x.negate.units = x.units := rfl
  rw [F32.value, F32.value, hneg, hunits]
  cases x.neg <;> simp

@[simp] theorem F32.isFinite_signedZero (neg : Bool) : (F32.signedZero neg).isFinite = true := rfl

@[simp] theorem F32.value_signedZero (neg : Bool) : (F32.signedZero neg).value = 0 := by
  cases neg <;> decide

@[simp] theorem F32.bits_signedZero_mod_two (neg : Bool) : (F32.signedZero neg).bits.toNat % 2 = 0 := by
  cases neg <;> decide

/-- The product of two values by sign and units, the form in which `fmul` and `fdiv` hand it to `roundF32`. -/
theorem F32.value_mul_value (a b : F32) :
    a.value * b.value =
      if (a.neg != b.neg) = true then -((a.units * b.units : Nat) : Int) else (a.units * b.units : Nat) := by
  unfold F32.value
  cases a.neg <;> cases b.neg <;> simp

/-- A value times the sign of another that is not zero. -/
theorem F32.value_mul_sign (a : F32) {b : F32} (hb : b.value ≠ 0) (k : Nat) :
    a.value * b.value.sign * (k : Int) =
      if (a.neg != b.neg) = true then -((a.units * k : Nat) : Int) else (a.units * k : Nat) := by
  have hpos : 0 < (b.units : Int) := by
    have := b.natAbs_value
    omega
  have hsign : b.value.sign = if b.neg then -1 else 1 := by
    unfold F32.value
    split
    · rw [Int.sign_neg, Int.sign_eq_one_of_pos hpos]
    · exact Int.sign_eq_one_of_pos hpos
  rw [hsign]
  unfold F32.value
  cases a.neg <;> cases b.neg <;> simp

/-! ### The four operations round the exact result (R19) -/

/-- A sum of finite values is its exact sum, rounded; an exact zero needs no rounding. -/
theorem addFinite_roundsTo (a b : F32) : (addFinite a b).RoundsTo (a.value + b.value) 1 := by
  unfold addFinite
  generalize a.value + b.value = s
  by_cases hs : s = 0
  · simp [hs, F32.RoundsTo]
  · have hround := roundF32_roundsTo (decide (s < 0)) s.natAbs Nat.one_pos
    have hval : (if decide (s < 0) = true then -(s.natAbs : Int) else s.natAbs) = s := by
      simp only [decide_eq_true_eq]
      split <;> omega
    rw [if_neg hs]
    rwa [hval] at hround

theorem addNumbers_of_isFinite (nan : F32) {a b : F32} (ha : a.isFinite = true) (hb : b.isFinite = true) :
    addNumbers nan a b = addFinite a b := by
  simp [addNumbers, F32.isInf_of_isFinite ha, F32.isInf_of_isFinite hb]

theorem fadd_roundsTo {a b : F32} (ha : a.isFinite = true) (hb : b.isFinite = true) :
    (fadd a b).RoundsTo (a.value + b.value) 1 := by
  have heq : fadd a b = addFinite a b := by
    simp [fadd, F32.isNaN_of_isFinite ha, F32.isNaN_of_isFinite hb, addNumbers_of_isFinite _ ha hb]
  rw [heq]
  exact addFinite_roundsTo a b

theorem fsub_roundsTo {a b : F32} (ha : a.isFinite = true) (hb : b.isFinite = true) :
    (fsub a b).RoundsTo (a.value - b.value) 1 := by
  have hn : b.negate.isFinite = true := hb
  have heq : fsub a b = addFinite a b.negate := by
    simp [fsub, F32.isNaN_of_isFinite ha, F32.isNaN_of_isFinite hb, addNumbers_of_isFinite _ ha hn]
  have hround := addFinite_roundsTo a b.negate
  rwa [F32.value_negate, ← Int.sub_eq_add_neg, ← heq] at hround

theorem fmul_roundsTo {a b : F32} (ha : a.isFinite = true) (hb : b.isFinite = true) :
    (fmul a b).RoundsTo (a.value * b.value) (2 ^ 149) := by
  have heq : fmul a b = roundF32 (a.neg != b.neg) (a.units * b.units) (2 ^ 149) := by
    simp [fmul, F32.isNaN_of_isFinite ha, F32.isNaN_of_isFinite hb, F32.isInf_of_isFinite ha,
      F32.isInf_of_isFinite hb]
  rw [heq, F32.value_mul_value]
  exact roundF32_roundsTo _ _ (Nat.two_pow_pos 149)

theorem fdiv_roundsTo {a b : F32} (ha : a.isFinite = true) (hb : b.isFinite = true) (h0 : b.value ≠ 0) :
    (fdiv a b).RoundsTo (a.value * b.value.sign * 2 ^ 149) b.value.natAbs := by
  have hu : b.units ≠ 0 := by
    rw [← b.natAbs_value]
    exact Int.natAbs_ne_zero.2 h0
  have heq : fdiv a b = roundF32 (a.neg != b.neg) (a.units * 2 ^ 149) b.units := by
    simp [fdiv, F32.isNaN_of_isFinite ha, F32.isNaN_of_isFinite hb, F32.isInf_of_isFinite ha,
      F32.isInf_of_isFinite hb, hu]
  have hval := F32.value_mul_sign a h0 (2 ^ 149)
  rw [Nat.cast_pow, Nat.cast_ofNat] at hval
  rw [heq, hval, F32.natAbs_value]
  exact roundF32_roundsTo _ _ (Nat.pos_of_ne_zero hu)

/-- Settles O55: a finite sum is its exact sum, rounded once. -/
theorem faddRoundsToNearestEven : Obligations.FaddRoundsToNearestEven := by
  intro a b ha hb
  obtain ⟨hfin, hnear, -⟩ := fadd_roundsTo ha hb
  simp only [Nat.cast_one, mul_one] at hfin hnear
  exact ⟨hfin, hnear⟩

/-- Settles O60: a difference is the sum with the second operand's sign turned round. -/
theorem fsubRoundsToNearestEven : Obligations.FsubRoundsToNearestEven :=
  fun _ _ ha hb => fsub_roundsTo ha hb

/-- Settles O56: both operations hand the exact product or quotient, by sign and units, to the one rounding. -/
theorem fmulAndFdivRoundToNearest : Obligations.FmulAndFdivRoundToNearest :=
  fun _ _ ha hb => ⟨fmul_roundsTo ha hb, fdiv_roundsTo ha hb⟩

/-! ### Conversion of integers (R19) -/

theorem i2f_roundsTo (n : Nat) : (i2f n).RoundsTo (n * 2 ^ 149) 1 := by
  have hround := roundF32_roundsTo false (n * 2 ^ 149) Nat.one_pos
  simpa [i2f] using hround

/-- A rounded result is the exact value where a finite value equals it. -/
theorem F32.RoundsTo.value_eq {r y : F32} {n : Int} (h : r.RoundsTo n 1) (hr : r.isFinite = true)
    (hy : y.isFinite = true) (hn : y.value = n) : r.value = n := by
  obtain ⟨-, hnear, -⟩ := h
  have := (hnear hr y hy).1
  simp only [Nat.cast_one, mul_one] at this
  omega

/-- An integer below `2^24` fits the 24 bits of a significand: some finite value is equal to it. -/
theorem F32.exists_value_eq_of_lt {n : Nat} (hn : n < 2 ^ 24) :
    ∃ y : F32, y.isFinite = true ∧ y.value = (n : Int) * 2 ^ 149 := by
  obtain rfl | h0 := Nat.eq_zero_or_pos n
  · exact ⟨F32.signedZero false, rfl, by simp⟩
  -- `n` shifted left until its top bit is bit 23, and the exponent that undoes the shift
  have hlog : n.log2 < 24 := (Nat.log2_lt h0.ne').2 hn
  have hlow : 2 ^ 23 ≤ n * 2 ^ (23 - n.log2) := by
    calc 2 ^ 23 = 2 ^ n.log2 * 2 ^ (23 - n.log2) := by rw [← Nat.pow_add]; congr 1; omega
      _ ≤ n * 2 ^ (23 - n.log2) := Nat.mul_le_mul_right _ (Nat.log2_self_le h0.ne')
  have hhigh : n * 2 ^ (23 - n.log2) < 2 ^ 24 := by
    calc n * 2 ^ (23 - n.log2) < 2 ^ (n.log2 + 1) * 2 ^ (23 - n.log2) :=
          Nat.mul_lt_mul_of_pos_right Nat.lt_log2_self (Nat.two_pow_pos _)
      _ = 2 ^ 24 := by rw [← Nat.pow_add]; congr 1; omega
  let m := (126 + n.log2) * 2 ^ 23 + n * 2 ^ (23 - n.log2)
  have hm : m < 0x7F800000 := by omega
  have hmag : (F32.ofMag false m).mag = m := F32.mag_ofMag _ (by omega)
  have hunits : (F32.ofMag false m).units = n * 2 ^ 149 := by
    rw [F32.units_eq, hmag, magUnits_candidate hhigh fun _ => hlow, Nat.mul_assoc, ← Nat.pow_add]
    congr 2
    omega
  refine ⟨F32.ofMag false m, by rw [F32.isFinite_iff, hmag]; exact hm, ?_⟩
  simp [F32.value, hunits]

theorem i2f_exact {n : Nat} (hn : n < 2 ^ 24) :
    (i2f n).isFinite = true ∧ (i2f n).value = (n : Int) * 2 ^ 149 := by
  have hround := i2f_roundsTo n
  obtain ⟨y, hy, hval⟩ := F32.exists_value_eq_of_lt hn
  have hfin : (i2f n).isFinite = true := by
    rw [hround.1]
    omega
  exact ⟨hfin, hround.value_eq hfin hy hval⟩

/-! ### The order of the values is the order of the keys (R19) -/

theorem magUnits_eq_zero_iff (m : Nat) : magUnits m = 0 ↔ m = 0 :=
  magUnits_strictMono.injective.eq_iff' (show magUnits 0 = 0 by decide)

/-- The order of the values is that of the keys, since magnitudes grow with their bits and the zeros are alike. -/
theorem F32.key_lt_key_iff (a b : F32) : a.key < b.key ↔ a.value < b.value := by
  have ha := magUnits_eq_zero_iff a.mag
  have hb := magUnits_eq_zero_iff b.mag
  have hab : magUnits a.mag < magUnits b.mag ↔ a.mag < b.mag := magUnits_strictMono.lt_iff_lt
  have hba : magUnits b.mag < magUnits a.mag ↔ b.mag < a.mag := magUnits_strictMono.lt_iff_lt
  simp only [F32.key, F32.value, F32.units_eq]
  cases a.neg <;> cases b.neg <;> simp only [if_true, if_false, Bool.false_eq_true] <;> omega

theorem F32.key_le_key_iff (a b : F32) : a.key ≤ b.key ↔ a.value ≤ b.value := by
  rw [← not_lt, ← not_lt, F32.key_lt_key_iff]

theorem F32.key_eq_key_iff (a b : F32) : a.key = b.key ↔ a.value = b.value := by
  rw [le_antisymm_iff, le_antisymm_iff, F32.key_le_key_iff, F32.key_le_key_iff]

theorem feq_iff (a b : F32) : feq a b = true ↔ a.isNaN = false ∧ b.isNaN = false ∧ a.key = b.key := by
  simp [feq, and_assoc]

/-- "any comparison with a NaN operand is false" (R19). -/
theorem comparisons_of_isNaN {a b : F32} (h : a.isNaN = true ∨ b.isNaN = true) :
    flt a b = false ∧ fle a b = false ∧ feq a b = false := by
  obtain h | h := h <;> simp [flt, fle, feq, h]

/-- On finite values the comparisons are those of the values. -/
theorem comparisons_of_isFinite {a b : F32} (ha : a.isFinite = true) (hb : b.isFinite = true) :
    (flt a b = true ↔ a.value < b.value) ∧ (fle a b = true ↔ a.value ≤ b.value) ∧
      (feq a b = true ↔ a.value = b.value) := by
  simp [flt_iff, fle_iff, feq_iff, F32.isNaN_of_isFinite ha, F32.isNaN_of_isFinite hb, F32.key_lt_key_iff,
    F32.key_le_key_iff, F32.key_eq_key_iff]

/-! ### The infinities are the ends of the order (log entry 9) -/

/-- The key of a value that is not NaN lies between those of the infinities, each of which has its key alone. -/
theorem F32.key_bounds {x : F32} (h : x.isNaN = false) :
    -0x7F800000 ≤ x.key ∧ x.key ≤ 0x7F800000 ∧ (x = F32.inf true ↔ x.key = -0x7F800000) ∧
      (x = F32.inf false ↔ x.key = 0x7F800000) := by
  rw [F32.isNaN_false_iff] at h
  have heq (neg : Bool) : x = F32.inf neg ↔ x.neg = neg ∧ x.mag = 0x7F800000 := by
    constructor
    · rintro rfl
      exact ⟨rfl, by cases neg <;> decide⟩
    · rintro ⟨hn, hm⟩
      exact F32.ext_mag hn (hm.trans (by cases neg <;> decide))
  rw [heq, heq]
  unfold F32.key
  cases x.neg <;>
    simp only [if_true, if_false, Bool.false_eq_true, true_and, false_and, false_iff, reduceCtorEq] <;>
    omega

/-- `-inf` is below every other value that is not NaN, and equal to itself alone. -/
theorem comparisons_negInf {x : F32} (h : x.isNaN = false) :
    (flt (F32.inf true) x = true ↔ x ≠ F32.inf true) ∧ fle (F32.inf true) x = true ∧ flt x (F32.inf true) = false ∧
      (fle x (F32.inf true) = true ↔ x = F32.inf true) ∧ (feq (F32.inf true) x = true ↔ x = F32.inf true) ∧
      (feq x (F32.inf true) = true ↔ x = F32.inf true) := by
  obtain ⟨hlow, -, heq, -⟩ := F32.key_bounds h
  have hn : (F32.inf true).isNaN = false := rfl
  have hk : (F32.inf true).key = -0x7F800000 := by decide
  simp only [Bool.eq_false_iff, Ne, flt_iff, fle_iff, feq_iff, h, hn, hk, heq, true_and, and_true]
  omega

/-- `+inf` is above every other value that is not NaN, and equal to itself alone. -/
theorem comparisons_posInf {x : F32} (h : x.isNaN = false) :
    (flt x (F32.inf false) = true ↔ x ≠ F32.inf false) ∧ fle x (F32.inf false) = true ∧
      flt (F32.inf false) x = false ∧ (fle (F32.inf false) x = true ↔ x = F32.inf false) ∧
      (feq (F32.inf false) x = true ↔ x = F32.inf false) ∧ (feq x (F32.inf false) = true ↔ x = F32.inf false) := by
  obtain ⟨-, hhigh, -, heq⟩ := F32.key_bounds h
  have hn : (F32.inf false).isNaN = false := rfl
  have hk : (F32.inf false).key = 0x7F800000 := by decide
  simp only [Bool.eq_false_iff, Ne, flt_iff, fle_iff, feq_iff, h, hn, hk, heq, true_and, and_true]
  omega

/-- Settles O57: conversion is one rounding, the comparisons are those of the keys. -/
theorem conversionAndComparisons : Obligations.ConversionAndComparisons := by
  refine ⟨i2f_roundsTo, fun _ => i2f_exact, fun _ _ => comparisons_of_isNaN, fun _ _ => comparisons_of_isFinite,
    fun x hx => ?_, by decide⟩
  have hlow : F32.ofBits 0xFF800000 = F32.inf true := by decide
  have hhigh : F32.ofBits 0x7F800000 = F32.inf false := by decide
  obtain ⟨l1, l2, l3, l4, l5, l6⟩ := comparisons_negInf hx
  rw [hlow, hhigh]
  exact ⟨l1, l2, l3, l4, l5, l6, comparisons_posInf hx⟩

/-! ### `clamp` and `trunc_u16` (R20, R21) -/

/-- "a NaN operand `x` passes through unchanged" (R20): no comparison with it holds. -/
theorem clamp_of_isNaN {x : F32} (lo hi : F32) (h : x.isNaN = true) : clamp x lo hi = x := by
  have hlo : flt x lo = false := (comparisons_of_isNaN (.inl h)).1
  have hhi : flt hi x = false := (comparisons_of_isNaN (.inr h)).1
  simp [clamp, hlo, hhi]

/-- A value at or above `+0.0` is its units: the one such with a sign is `-0.0`. -/
theorem F32.value_eq_units_of_nonneg {x : F32} (h : fle F32.zero x = true) : x.value = x.units := by
  obtain ⟨-, -, hkey⟩ := (fle_iff _ _).1 h
  have hnonneg : 0 ≤ x.value := (F32.key_le_key_iff F32.zero x).1 hkey
  have := x.natAbs_value
  omega

/-- `trunc_u16` on its domain is the floor of the value (R21). -/
theorem truncU16_floor {x : F32} (h0 : fle F32.zero x = true) (h1 : fle x F32.max16 = true) :
    ((truncU16 x).toNat : Int) * 2 ^ 149 ≤ x.value ∧ x.value < ((truncU16 x).toNat + 1 : Int) * 2 ^ 149 := by
  rw [F32.value_eq_units_of_nonneg h0, truncU16_eq h0 h1]
  omega

/-- Settles O58: the branches of `clamp`, and `trunc_u16` as a floor. -/
theorem clampAndTruncation : Obligations.ClampAndTruncation := by
  refine ⟨fun x lo hi => ⟨fun h => ?_, fun h h' => ?_, fun h h' => ?_, clamp_of_isNaN lo hi, clamp_mem⟩,
    fun x h0 h1 => truncU16_floor h0 h1⟩
  · simp [clamp, h]
  · simp [clamp, h, h']
  · simp [clamp, h, h']

end Sys2Proof

namespace Sys2Proof.Machine

/-! ### What a word at port D may change (R10, R80) -/

/-- Beside the writer's copies that the decode core owns, the error bitmask and port D's response, `t` is `s`. -/
def State.DecodeCoreFrame (s t : State) : Prop :=
  { t with target := s.target, prev := s.prev, setup := s.setup, errorState := s.errorState, respD := s.respD } = s ∧
    t.target.r = s.target.r ∧ t.prev.r = s.prev.r ∧ t.setup.r = s.setup.r

theorem State.DecodeCoreFrame.refl (s : State) : s.DecodeCoreFrame s := ⟨rfl, rfl, rfl, rfl⟩

/-- A response on port D keeps the frame. -/
theorem State.DecodeCoreFrame.respond {s t : State} (h : s.DecodeCoreFrame t) (hp : s.port = .d) (st : Status)
    (d : U32) : s.DecodeCoreFrame (t.respond st d) := by
  have hport : t.port = s.port := by rw [← h.1]
  rw [State.respond_d (hport.trans hp)]
  exact h

/-- A command that port D may not use, or whose body keeps the frame there, keeps the frame. -/
theorem State.DecodeCoreFrame.onPorts {s t : State} {ports : PortSet} {body : State → State} (hp : s.port = .d)
    (hbody : ports.allows .d = true → s.DecodeCoreFrame (body s)) (h : onPorts ports s body = .next t) :
    s.DecodeCoreFrame t := by
  obtain ⟨hallow, hrun⟩ | ⟨-, hrun⟩ := onPorts_next ports s body
  · obtain rfl := Host.Outcome.next.inj (hrun.symm.trans h)
    exact hbody (hp ▸ hallow)
  · obtain rfl := Host.Outcome.next.inj (hrun.symm.trans h)
    exact (State.DecodeCoreFrame.refl s).respond hp _ _

/-- A body that only answers keeps the frame on port D. -/
theorem State.DecodeCoreFrame.answer {s t : State} {ports : PortSet} {st : Status} {d : State → U32} (hp : s.port = .d)
    (h : Machine.onPorts ports s (fun s => s.respond st (d s)) = .next t) : s.DecodeCoreFrame t :=
  .onPorts hp (fun _ => (State.DecodeCoreFrame.refl s).respond hp _ _) h

/-- A command of port C alone is denied on port D. -/
theorem State.DecodeCoreFrame.onlyC {s t : State} {body : State → State} (hp : s.port = .d)
    (h : Machine.onPorts .onlyC s body = .next t) : s.DecodeCoreFrame t :=
  .onPorts hp (fun hallow => absurd hallow (by decide)) h

/-- Every command on port D keeps the frame: it is denied, it only answers, or it writes one of the registers that the
frame leaves free. -/
theorem exec_decodeCoreFrame {i : Instr} {s t : State} (hp : s.port = .d) (h : exec i s = .next t) :
    s.DecodeCoreFrame t := by
  cases i with
  | init | ctrlTick | rampTick | measure | getKp | getInitialLevel | wrFseDone =>
    simp only [exec_init, exec_ctrlTick, exec_rampTick, exec_measure, exec_getKp, exec_getInitialLevel,
      exec_wrFseDone] at h
    exact .onlyC hp h
  | directionOf | tableIndexOf | decodeStep | getErrorState | rdTarget | rdTargetPrev | rdSetupDone | rdFseDone =>
    simp only [exec_directionOf, exec_tableIndexOf, exec_decodeStep, exec_getErrorState, exec_rdTarget,
      exec_rdTargetPrev, exec_rdSetupDone, exec_rdFseDone] at h
    exact .answer hp h
  | rdState xx =>
    cases hr : regRead s xx with
    | none =>
      rw [exec_rdState_reserved hr] at h
      obtain rfl := Host.Outcome.next.inj h
      exact (State.DecodeCoreFrame.refl s).respond hp _ _
    | some v =>
      rw [exec_rdState hr] at h
      exact .onlyC hp h
  | setError | clearError | clearAllErrors | wrTarget | wrSetupDone =>
    simp only [exec_setError, exec_clearError, exec_clearAllErrors, exec_wrTarget, exec_wrSetupDone] at h
    refine .onPorts hp (fun _ => .respond ?_ hp _ _) h
    exact ⟨rfl, rfl, rfl, rfl⟩

/-- Settles O18: the word is answered `ILLEGAL`, or its command keeps the frame. -/
theorem portDTouchesOnlySharedState : Obligations.PortDTouchesOnlySharedState := by
  intro s t w rest hin h
  have hstep : acceptWord w { s with inputs := rest, port := .d } = .next t := by
    rwa [step, hin] at h
  change State.DecodeCoreFrame { s with inputs := rest, port := .d } t
  unfold acceptWord at hstep
  split at hstep
  · exact exec_decodeCoreFrame rfl hstep
  · obtain rfl := Host.Outcome.next.inj hstep
    exact (State.DecodeCoreFrame.refl _).respond rfl _ _

end Sys2Proof.Machine

/-! PROOFS. The statements on the state and its reset (spec/10_state.md): the invariant of the CORE (R43, R44, R48,
R60), the reset state (R62, R301), and who changes the shared fields (R51, R76). -/

namespace Sys2Proof.Machine

/-! ### What the bodies of the commands can do -/

/-- `INIT` does one of four things (R200). -/
theorem State.initBody_cases (s : State) :
    (s.initialised = true ∧ s.initBody = s.respond .denied 0) ∨
      (s.initialised = false ∧ s.setup.r = false ∧ s.initBody = s.respond .notReady 0) ∨
      (s.initialised = false ∧ s.setup.r = true ∧ s.cv.valid s.maxSamples = false ∧
        s.initBody = (s.raise .configError).respond .fault 0) ∨
      (s.initialised = false ∧ s.setup.r = true ∧ s.cv.valid s.maxSamples = true ∧
        s.initBody = (s.initialise s.cv).respond .ok 0) := by
  unfold State.initBody
  cases s.initialised <;> cases s.setup.r <;> cases s.cv.valid s.maxSamples <;> simp

/-- `CTRL_TICK` does one of four things (R210, R212). -/
theorem State.ctrlTickBody_cases (s : State) :
    (s.initialised = false ∧ s.ctrlTickBody = s.respond .notReady 0) ∨
      (s.initialised = true ∧ s.setpoint = 0 ∧ s.ctrlTickBody = s.stopBody.respond .ok 0) ∨
      (s.initialised = true ∧ s.setpoint ≠ 0 ∧ s.mode = .startup ∧ s.ctrlTickBody = s.startupTick) ∨
      (s.initialised = true ∧ s.setpoint ≠ 0 ∧ s.mode = .pid ∧ s.ctrlTickBody = s.pidTick) := by
  unfold State.ctrlTickBody
  by_cases h0 : s.setpoint = 0 <;> cases s.initialised <;> cases s.mode <;> simp [h0]

/-- `RAMP_TICK` is refused before `INIT` and else writes `setpoint` alone (R220). -/
theorem State.rampTickBody_cases (s : State) :
    (s.initialised = false ∧ s.rampTickBody = s.respond .notReady 0) ∨
      (s.initialised = true ∧ ∃ sp d, s.rampTickBody = State.respond { s with setpoint := sp } .ok d) := by
  unfold State.rampTickBody
  cases s.initialised
  · exact .inl ⟨rfl, rfl⟩
  · exact .inr ⟨rfl, _, _, rfl⟩

/-- Decoding a direction code raises at most an error bit (R141). -/
theorem decodeDirection_state (kk : U8) (s : State) :
    (decodeDirection kk s).2 = s ∨ (decodeDirection kk s).2 = s.raise .invalidDirection := by
  unfold decodeDirection
  split
  · exact .inl rfl
  · exact .inr rfl

/-- `MEASURE` answers what `measure` left of the state in which the direction code was decoded (R140). -/
theorem State.measureBody_eq (kk : U8) (s : State) :
    ∃ st d, s.measureBody kk = (measure (decodeDirection kk s).1 (decodeDirection kk s).2).2.respond st d := by
  unfold State.measureBody
  obtain ⟨d, s'⟩ := decodeDirection kk s
  dsimp only
  obtain ⟨_ | m, s''⟩ := measure d s'
  · exact ⟨_, _, rfl⟩
  · exact ⟨_, _, rfl⟩

/-- What a command can do from `s`: the next state is an answer, or the effect of the command on a port that may use it.
`exec_does` says that `exec` does nothing else. -/
inductive Does (s : State) : Instr → State → Prop where
  | answer (i : Instr) (st : Status) (d : U32) : Does s i (s.respond st d)
  | init (hp : s.port = .c) : Does s .init s.initBody
  | ctrlTick (hp : s.port = .c) : Does s .ctrlTick s.ctrlTickBody
  | rampTick (hp : s.port = .c) : Does s .rampTick s.rampTickBody
  | measure (hp : s.port = .c) (kk : U8) : Does s (.measure kk) (s.measureBody kk)
  | setError (b : BitVec 5) : Does s (.setError b)
      (State.respond { s with errorState := setErrorBit s.errorState b } .ok (setErrorBit s.errorState b))
  | clearError (b : BitVec 5) : Does s (.clearError b) ((s.acknowledge b).respond .ok (clearErrorBit s.errorState b))
  | clearAllErrors : Does s .clearAllErrors (State.respond { s with errorState := 0 } .ok 0)
  | wrTarget (hp : s.port = .d) (ss : U8) : Does s (.wrTarget ss)
      (State.respond { s with prev := { s.prev with w := s.target.w }, target := { s.target with w := ss } } .ok 0)
  | wrSetupDone (hp : s.port = .d) (v : Bool) :
      Does s (.wrSetupDone v) (State.respond { s with setup := { s.setup with w := v } } .ok 0)
  | wrFseDone (hp : s.port = .c) (v : Bool) :
      Does s (.wrFseDone v) (State.respond { s with fse := { s.fse with w := v } } .ok 0)

/-- On a port that may use it a command does what its body does; on the other it is `DENIED`. -/
theorem Does.of_onPorts {i : Instr} {s t : State} {ports : PortSet} {body : State → State}
    (hrun : onPorts ports s body = .next t) (hbody : ports.allows s.port = true → Does s i (body s)) : Does s i t := by
  obtain ⟨hallow, hnext⟩ | ⟨-, hnext⟩ := onPorts_next ports s body
  · obtain rfl := Host.Outcome.next.inj (hnext.symm.trans hrun)
    exact hbody hallow
  · obtain rfl := Host.Outcome.next.inj (hnext.symm.trans hrun)
    exact .answer i _ _

theorem exec_does {i : Instr} {s t : State} (hrun : exec i s = .next t) : Does s i t := by
  cases i with
  | init => exact .of_onPorts (exec_init s ▸ hrun) fun hp => .init ((PortSet.onlyC_allows _).1 hp)
  | ctrlTick => exact .of_onPorts (exec_ctrlTick s ▸ hrun) fun hp => .ctrlTick ((PortSet.onlyC_allows _).1 hp)
  | rampTick => exact .of_onPorts (exec_rampTick s ▸ hrun) fun hp => .rampTick ((PortSet.onlyC_allows _).1 hp)
  | measure kk => exact .of_onPorts (exec_measure kk s ▸ hrun) fun hp => .measure ((PortSet.onlyC_allows _).1 hp) kk
  | setError b => exact .of_onPorts (exec_setError b s ▸ hrun) fun _ => .setError b
  | clearError b => exact .of_onPorts (exec_clearError b s ▸ hrun) fun _ => .clearError b
  | clearAllErrors => exact .of_onPorts (exec_clearAllErrors s ▸ hrun) fun _ => .clearAllErrors
  | wrTarget ss => exact .of_onPorts (exec_wrTarget ss s ▸ hrun) fun hp => .wrTarget ((PortSet.onlyD_allows _).1 hp) ss
  | wrSetupDone v =>
    exact .of_onPorts (exec_wrSetupDone v s ▸ hrun) fun hp => .wrSetupDone ((PortSet.onlyD_allows _).1 hp) v
  | wrFseDone v => exact .of_onPorts (exec_wrFseDone v s ▸ hrun) fun hp => .wrFseDone ((PortSet.onlyC_allows _).1 hp) v
  | directionOf | tableIndexOf | decodeStep | getKp | getInitialLevel | getErrorState | rdTarget | rdTargetPrev
  | rdSetupDone | rdFseDone =>
    simp only [exec_directionOf, exec_tableIndexOf, exec_decodeStep, exec_getKp, exec_getInitialLevel,
      exec_getErrorState, exec_rdTarget, exec_rdTargetPrev, exec_rdSetupDone, exec_rdFseDone] at hrun
    exact .of_onPorts hrun fun _ => .answer _ _ _
  | rdState xx =>
    cases hr : regRead s xx with
    | none =>
      obtain rfl := Host.Outcome.next.inj ((exec_rdState_reserved hr).symm.trans hrun)
      exact .answer _ _ _
    | some v => exact .of_onPorts (exec_rdState hr ▸ hrun) fun _ => .answer _ _ _

/-! ### The reset state -/

/-- In the reset state each of the numbers that are not reserved reads zero: finitely many, evaluated. -/
theorem regRead_reset : ∀ xx : U8, reservedIndex xx = false → regRead State.reset xx = some 0 := by
  decide +kernel

/-- Settles O50: `RD_STATE` on port C answers what the register reads. -/
theorem resetLeavesEveryRegisterZero : Obligations.ResetLeavesEveryRegisterZero := by
  refine ⟨fun xx hx => ⟨State.reset.respond .ok 0, ?_, State.respond_onlyAnswers ..⟩, rfl, rfl, rfl, rfl, rfl, rfl, rfl,
    rfl⟩
  rw [exec_rdState (regRead_reset xx hx)]
  exact onPorts_allowed rfl _

/-! ### The invariant at reset -/

/-- The invariant holds after the event `RESET` in any state. -/
theorem State.applyReset_inv (s : State) : s.applyReset.Inv where
  shadowPwm := rfl
  shadowDrive := rfl
  ring _ := rfl
  learned h := absurd h (by simp [State.applyReset, State.reset])
  output := ⟨fle_refl rfl, show fle F32.zero F32.max16 = true by decide, Nat.zero_le _⟩
  integral _ _ := ⟨fle_refl rfl, fle_refl rfl⟩
  unpoisoned := by
    change ∀ x ∈ List.replicate 8 F32.zero, x.isNaN = false
    decide
  configured h := absurd h (by simp [State.applyReset, State.reset])
  unconfigured _ := ⟨⟨rfl, rfl, rfl, rfl⟩, rfl, rfl, rfl⟩

/-- Settles O52: the reset state is what `RESET` makes of itself. -/
theorem invariantHoldsAtReset : Obligations.InvariantHoldsAtReset :=
  State.applyReset_inv State.reset

/-! ### Every step keeps the invariant -/

/-- After `INIT` the invariant's clause on the time before it asks nothing. -/
theorem State.unconfigured_of_initialised {s : State} (hi : s.initialised = true) :
    s.initialised = false → s.Unconfigured :=
  fun hu => absurd (hi.symm.trans hu) (by decide)

/-- Before `INIT` the sampler's contract is broken, so where it holds `INIT` has succeeded. -/
theorem State.Inv.initialised_of_contract {s : State} (h : s.Inv) (hc : s.contract = true) : s.initialised = true := by
  cases hi : s.initialised
  · obtain ⟨hlt, -⟩ := (samplerContract_iff _ _ _ _).1 hc
    simp [(h.unconfigured hi).noSamples] at hlt
  · rfl

/-- A measurement that sampled restores the drive and sets no level (R143 to R146). -/
theorem State.Inv.afterMeasure {s : State} (h : s.Inv) (hc : s.contract = true) (d : Direction) :
    (s.afterMeasure d).Inv :=
  { h with
    shadowPwm := h.shadowPwm.trans (lastPwm_afterMeasure s d).symm
    shadowDrive := (lastDrive_afterMeasure s d).symm
    configured := fun hi => { h.configured hi with }
    unconfigured := State.unconfigured_of_initialised (h.initialised_of_contract hc) }

/-- `measure` keeps the invariant on each of its three paths. -/
theorem State.Inv.measure {s : State} (h : s.Inv) (d : Direction) : (Machine.measure d s).2.Inv := by
  obtain ⟨-, hm⟩ | ⟨hc, -, hm⟩ | ⟨hc, -, hm⟩ := measure_cases d s <;> rw [hm]
  · exact h.raise _
  · exact (h.afterMeasure hc d).raise _
  · exact h.afterMeasure hc d

theorem State.Inv.measureBody {s : State} (h : s.Inv) (kk : U8) : (s.measureBody kk).Inv := by
  obtain ⟨st, data, hb⟩ := s.measureBody_eq kk
  rw [hb]
  refine State.Inv.respond (State.Inv.measure ?_ _) _ _
  obtain hd | hd := decodeDirection_state kk s <;> rw [hd]
  · exact h
  · exact h.raise _

/-- A level within `max_output` may be set once `INIT` has succeeded. -/
theorem State.Inv.setPwm {s : State} (h : s.Inv) (hi : s.initialised = true) {level : U16}
    (hl : level.toNat ≤ (truncU16 s.pid.maxOutput).toNat) : (s.setPwm level).Inv :=
  { h with
    shadowPwm := (lastPwm_setPwm s.events level).symm
    shadowDrive := h.shadowDrive.trans (lastDrive_setPwm s.events level).symm
    output := ⟨h.output.1, h.output.2.1, hl⟩
    configured := fun _ => { h.configured hi with }
    unconfigured := State.unconfigured_of_initialised hi }

/-- After `INIT` the startup controller's level and seed are free, and the mode may fall back to `Startup`. -/
theorem State.Inv.setStartup {s : State} (h : s.Inv) (hi : s.initialised = true) {mode : Mode}
    (hmode : mode = .pid → s.mode = .pid) (level : U16) (seeded : Bool) :
    State.Inv { s with mode, startup := { s.startup with level, seeded } } :=
  { h with
    learned := fun hm => h.learned (hmode hm)
    configured := fun _ => { h.configured hi with }
    unconfigured := State.unconfigured_of_initialised hi }

/-- After `INIT` the setpoint is free. -/
theorem State.Inv.setSetpoint {s : State} (h : s.Inv) (hi : s.initialised = true) (sp : Fin 127) :
    State.Inv { s with setpoint := sp } :=
  { h with
    configured := fun _ => { h.configured hi with }
    unconfigured := State.unconfigured_of_initialised hi }

/-- The stop action (R211). -/
theorem State.Inv.stopBody {s : State} (h : s.Inv) (hi : s.initialised = true) : s.stopBody.Inv :=
  (h.setStartup hi (by simp) 0 false).setPwm hi (Nat.zero_le _)

/-- Recording a level keeps index and count of the ring in step (R43, R168). -/
theorem StartupState.push_ring {u : StartupState} (level : U16)
    (h : u.histCount.val < 16 → u.histIdx.val = u.histCount.val) :
    ((u.push level).histCount.val < 16 → (u.push level).histIdx.val = (u.push level).histCount.val) ∧
      1 ≤ (u.push level).histCount.val := by
  have hidx : (u.push level).histIdx.val = (u.histIdx.val + 1) % 16 := by simp [StartupState.push, Fin.val_add]
  have hcount : (u.push level).histCount.val = min (u.histCount.val + 1) 16 := rfl
  omega

/-- The handoff learns a level before it enters `Pid`, and zeroes the running terms (R168). -/
theorem State.Inv.handoff {s : State} (h : s.Inv) (hi : s.initialised = true) : s.handoff.Inv :=
  have hring := StartupState.push_ring s.startup.level h.ring
  { h with
    ring := hring.1
    learned := fun _ => hring.2
    integral := fun hmin hmax => ⟨hmin, hmax⟩
    unpoisoned := by
      have hold := h.unpoisoned
      simp only [State.pidWritten, List.forall_mem_cons] at hold ⊢
      obtain ⟨hraw, hrawPrev, hcorrected, he, hkP, -, -, -, hnil⟩ := hold
      exact ⟨hraw, hrawPrev, hcorrected, he, hkP, rfl, rfl, rfl, hnil⟩
    configured := fun _ => { h.configured hi with }
    unconfigured := State.unconfigured_of_initialised hi }

/-- The level of a startup tick is cut to the ceiling, which lies within `max_output` (R165, R166). -/
theorem State.nextLevel_le (s : State) : (BitVec.ofNat 16 s.nextLevel).toNat ≤ (truncU16 s.pid.maxOutput).toNat := by
  have hceil : s.ceiling ≤ (truncU16 s.pid.maxOutput).toNat := Nat.min_le_right ..
  have hnext : s.nextLevel ≤ s.ceiling := by
    unfold State.nextLevel
    split <;> exact Nat.min_le_right ..
  rw [BitVec.toNat_ofNat]
  exact (Nat.mod_le ..).trans (hnext.trans hceil)

theorem State.Inv.startupTick {s : State} (h : s.Inv) (hi : s.initialised = true) : s.startupTick.Inv := by
  refine State.Inv.respond ?_ _ _
  have hset : (State.setPwm
      { s with startup := { s.startup with level := BitVec.ofNat 16 s.nextLevel, seeded := true } }
      (BitVec.ofNat 16 s.nextLevel)).Inv :=
    (h.setStartup hi id _ true).setPwm hi s.nextLevel_le
  unfold State.startupBody
  dsimp only
  split
  · exact hset.handoff hi
  · exact hset

/-- The writes of a PID tick keep the invariant where no value is NaN and the integral and the level are in bounds. -/
theorem State.Inv.pidWrite {s : State} (h : s.Inv) (hi : s.initialised = true) {m corrected kp e i d : F32}
    {level : U16}
    (hnum : ∀ x ∈ [m, corrected, kp, e, i, d], x.isNaN = false)
    (hint : fle s.pid.intLimMin F32.zero = true → fle F32.zero s.pid.intLimMax = true →
      fle s.pid.intLimMin i = true ∧ fle i s.pid.intLimMax = true)
    (hl : level.toNat ≤ (truncU16 s.pid.maxOutput).toNat) : (s.pidWrite m corrected kp e i d level).Inv :=
  { h.setPwm hi hl with
    integral := hint
    unpoisoned := by
      have hraw : s.meas.raw.isNaN = false := h.unpoisoned _ (by simp [State.pidWritten])
      simp only [List.forall_mem_cons] at hnum
      obtain ⟨hm, hcorrected, hkp, he, hintegral, hder, hnil⟩ := hnum
      simp only [State.pidWritten, List.forall_mem_cons]
      exact ⟨hm, hraw, hcorrected, he, hkp, he, hintegral, hder, hnil⟩
    configured := fun _ => { h.configured hi with }
    unconfigured := State.unconfigured_of_initialised hi }

/-- A PID tick whose output sum is not NaN: no part of the sum is NaN, and the integral and the level are clamped (R190,
R192, R193). -/
theorem State.Inv.pidCommit {s : State} (h : s.Inv) (hi : s.initialised = true) {m : F32}
    (hsum : (s.pidSum m).isNaN = false) : (s.pidCommit m).Inv := by
  obtain ⟨hkp, he, hint, hder⟩ := State.pidSum_parts hsum
  obtain ⟨hcorrected, -⟩ := fsub_not_nan he
  obtain ⟨hm, -⟩ := fsub_not_nan hcorrected
  obtain ⟨hmax0, hmax16, -⟩ := h.output
  obtain ⟨hlow, hhigh⟩ := clamp_mem hsum hmax0
  refine h.pidWrite hi ?_ (fun hmin hmax => clamp_mem (clamp_not_nan hint) (fle_trans hmin hmax))
    (truncU16_mono hlow hhigh hmax16)
  simp only [List.forall_mem_cons]
  exact ⟨hm, hcorrected, hkp, he, hint, hder, by simp⟩

theorem State.Inv.pidTick {s : State} (h : s.Inv) : s.pidTick.Inv := by
  obtain ⟨-, ht⟩ | ⟨hc, ht⟩ | ⟨m, hc, hsum, -, ht⟩ := s.pidTick_cases <;> rw [ht]
  · exact (h.raise _).respond _ _
  · exact ((h.afterMeasure hc _).raise _).respond _ _
  · exact ((h.afterMeasure hc _).pidCommit (h.initialised_of_contract hc) hsum).respond _ _

theorem State.Inv.ctrlTickBody {s : State} (h : s.Inv) : s.ctrlTickBody.Inv := by
  obtain ⟨-, ht⟩ | ⟨hi, -, ht⟩ | ⟨hi, -, -, ht⟩ | ⟨-, -, -, ht⟩ := s.ctrlTickBody_cases <;> rw [ht]
  · exact h.respond _ _
  · exact (h.stopBody hi).respond _ _
  · exact h.startupTick hi
  · exact h.pidTick

theorem State.Inv.rampTickBody {s : State} (h : s.Inv) : s.rampTickBody.Inv := by
  obtain ⟨-, ht⟩ | ⟨hi, sp, d, ht⟩ := s.rampTickBody_cases <;> rw [ht]
  · exact h.respond _ _
  · exact (h.setSetpoint hi sp).respond _ _

/-- What `INIT` checks and computes of a record is what the configuration's registers then hold (R202 to R205). -/
theorem State.initialise_configured {s : State} {c : CvConfig} (hv : c.valid s.maxSamples = true) :
    (s.initialise c).Configured := by
  simp only [CvConfig.valid, Bool.and_eq_true, List.all_eq_true] at hv
  obtain ⟨⟨⟨⟨⟨⟨hfin, hbreak⟩, hlim⟩, -⟩, hper⟩, hcon⟩, -⟩ := hv
  exact ⟨hfin, hbreak, hlim, hper, (samplerContract_iff _ _ _ _).1 hcon, ⟨rfl, rfl⟩, ⟨rfl, rfl, rfl⟩⟩

/-- A successful `INIT`: the integral is still the zero it was before. -/
theorem State.Inv.initialise {s : State} (h : s.Inv) (hi : s.initialised = false) {c : CvConfig}
    (hv : c.valid s.maxSamples = true) : (s.initialise c).Inv :=
  have hout : fle F32.zero c.maxOutput = true ∧ fle c.maxOutput F32.max16 = true := by
    simp only [CvConfig.valid, Bool.and_eq_true] at hv
    obtain ⟨⟨⟨⟨-, hout⟩, -⟩, -⟩, -⟩ := hv
    exact hout
  { h with
    shadowPwm := by rw [State.initialise_events, lastPwm_enableDrive, lastPwm_setPwm, State.initialise_pwmLevel]
    shadowDrive := by rw [State.initialise_events, lastDrive_enableDrive, State.initialise_driveEnabled]
    output := ⟨hout.1, hout.2, Nat.zero_le _⟩
    integral := fun hmin hmax => by
      have hz : (s.initialise c).pid.iPrev = F32.zero := (h.unconfigured hi).noIntegral
      rw [hz]
      exact ⟨hmin, hmax⟩
    configured := fun _ => State.initialise_configured hv
    unconfigured := State.unconfigured_of_initialised rfl }

theorem State.Inv.initBody {s : State} (h : s.Inv) : s.initBody.Inv := by
  obtain ⟨-, ht⟩ | ⟨-, -, ht⟩ | ⟨-, -, -, ht⟩ | ⟨hi, -, hv, ht⟩ := s.initBody_cases <;> rw [ht]
  · exact h.respond _ _
  · exact h.respond _ _
  · exact (h.raise _).respond _ _
  · exact (h.initialise hi hv).respond _ _

/-- The invariant reads neither the shared registers nor what stands for the surroundings. -/
theorem State.Inv.unread {s : State} (h : s.Inv) {target prev : Synced U8} {setup fse : Synced Bool} {errorState : U32}
    {port : Port} {inputs : List Input} {cv : CvConfig} {adcAnswers : List AdcAnswer} :
    State.Inv { s with target, prev, setup, fse, errorState, port, inputs, cv, adcAnswers } :=
  h.congr rfl rfl rfl rfl rfl rfl rfl rfl rfl rfl rfl

/-- Every command keeps the invariant. -/
theorem exec_inv {i : Instr} {s t : State} (h : s.Inv) (hrun : exec i s = .next t) : t.Inv := by
  cases exec_does hrun with
  | answer => exact h.respond _ _
  | init => exact h.initBody
  | ctrlTick => exact h.ctrlTickBody
  | rampTick => exact h.rampTickBody
  | measure => exact h.measureBody _
  | setError | clearError | clearAllErrors | wrTarget | wrSetupDone | wrFseDone =>
    exact State.Inv.respond h.unread _ _

theorem State.Inv.sync {s : State} (h : s.Inv) (f : SharedField) : (s.sync f).Inv := by
  cases f <;> exact h.unread

/-- Settles O53: each input of a step keeps the invariant. -/
theorem everyStepKeepsTheInvariant : Obligations.EveryStepKeepsTheInvariant := by
  intro s t h hstep
  obtain ⟨-, rfl⟩ | ⟨p, w, rest, -, ⟨i, -, hrun⟩ | ⟨-, rfl⟩⟩ | ⟨f, rest, -, rfl⟩ | ⟨rest, -, rfl⟩ | ⟨c, rest, -, rfl⟩ |
    ⟨as, rest, -, rfl⟩ := step_cases hstep
  · exact h
  · exact exec_inv h.unread hrun
  · exact State.Inv.respond h.unread _ _
  · exact State.Inv.sync h.unread f
  · exact State.applyReset_inv _
  · exact h.unread
  · exact h.unread

/-! ### Who changes the shared fields -/

/-- Both copies of each shared field are the same in `s` and `t`. -/
structure State.SameShared (s t : State) : Prop where
  target : t.target = s.target
  prev : t.prev = s.prev
  setup : t.setup = s.setup
  fse : t.fse = s.fse

theorem State.SameShared.refl (s : State) : s.SameShared s := ⟨rfl, rfl, rfl, rfl⟩

theorem State.SameShared.respond {s t : State} (h : s.SameShared t) (st : Status) (d : U32) :
    s.SameShared (t.respond st d) :=
  ⟨by simp [h.target], by simp [h.prev], by simp [h.setup], by simp [h.fse]⟩

theorem State.sameShared_initBody (s : State) : s.SameShared s.initBody := by
  obtain ⟨-, ht⟩ | ⟨-, -, ht⟩ | ⟨-, -, -, ht⟩ | ⟨-, -, -, ht⟩ := s.initBody_cases <;> rw [ht] <;>
    refine .respond ?_ _ _ <;> exact ⟨rfl, rfl, rfl, rfl⟩

theorem State.sameShared_rampTickBody (s : State) : s.SameShared s.rampTickBody := by
  obtain ⟨-, ht⟩ | ⟨-, sp, d, ht⟩ := s.rampTickBody_cases <;> rw [ht] <;>
    refine .respond ?_ _ _ <;> exact ⟨rfl, rfl, rfl, rfl⟩

theorem State.sameShared_startupTick (s : State) : s.SameShared s.startupTick := by
  refine .respond ?_ _ _
  unfold State.startupBody
  dsimp only
  split <;> exact ⟨rfl, rfl, rfl, rfl⟩

theorem State.sameShared_pidTick (s : State) : s.SameShared s.pidTick := by
  obtain ⟨-, ht⟩ | ⟨-, ht⟩ | ⟨m, -, -, -, ht⟩ := s.pidTick_cases <;> rw [ht] <;> refine .respond ?_ _ _
  · exact ⟨rfl, rfl, rfl, rfl⟩
  · exact ⟨rfl, rfl, rfl, rfl⟩
  · exact ⟨State.pidCommit_target .., State.pidCommit_prev .., State.pidCommit_setup .., State.pidCommit_fse ..⟩

theorem State.sameShared_ctrlTickBody (s : State) : s.SameShared s.ctrlTickBody := by
  obtain ⟨-, ht⟩ | ⟨-, -, ht⟩ | ⟨-, -, -, ht⟩ | ⟨-, -, -, ht⟩ := s.ctrlTickBody_cases <;> rw [ht]
  · exact (State.SameShared.refl s).respond _ _
  · refine .respond ?_ _ _
    exact ⟨rfl, rfl, rfl, rfl⟩
  · exact s.sameShared_startupTick
  · exact s.sameShared_pidTick

theorem State.sameShared_measure (d : Direction) (s : State) : s.SameShared (measure d s).2 := by
  obtain ⟨-, hm⟩ | ⟨-, -, hm⟩ | ⟨-, -, hm⟩ := measure_cases d s <;> rw [hm] <;> exact ⟨rfl, rfl, rfl, rfl⟩

theorem State.sameShared_measureBody (s : State) (kk : U8) : s.SameShared (s.measureBody kk) := by
  obtain ⟨st, d, ht⟩ := s.measureBody_eq kk
  rw [ht]
  refine .respond ?_ st d
  obtain hd | hd := decodeDirection_state kk s <;> rw [hd]
  · exact State.sameShared_measure _ s
  · exact { State.sameShared_measure _ (s.raise .invalidDirection) with }

/-- Between `s` and `t`, the command `i` wrote a writer's copy only as the owning port's write command of that field,
and no reader's copy (R51, R237). -/
structure State.OwnersWrite (s : State) (i : Instr) (t : State) : Prop where
  target : t.target.w ≠ s.target.w ∨ t.prev.w ≠ s.prev.w → s.port = .d ∧ ∃ ss, i = .wrTarget ss
  setup : t.setup.w ≠ s.setup.w → s.port = .d ∧ ∃ v, i = .wrSetupDone v
  fse : t.fse.w ≠ s.fse.w → s.port = .c ∧ ∃ v, i = .wrFseDone v
  readers : t.target.r = s.target.r ∧ t.prev.r = s.prev.r ∧ t.setup.r = s.setup.r ∧ t.fse.r = s.fse.r

theorem State.SameShared.ownersWrite {s t : State} (h : s.SameShared t) (i : Instr) : s.OwnersWrite i t := by
  obtain ⟨htarget, hprev, hsetup, hfse⟩ := h
  constructor <;> simp [htarget, hprev, hsetup, hfse]

theorem exec_ownersWrite {i : Instr} {s t : State} (hrun : exec i s = .next t) : s.OwnersWrite i t := by
  cases exec_does hrun with
  | answer => exact ((State.SameShared.refl s).respond _ _).ownersWrite _
  | init => exact s.sameShared_initBody.ownersWrite _
  | ctrlTick => exact s.sameShared_ctrlTickBody.ownersWrite _
  | rampTick => exact s.sameShared_rampTickBody.ownersWrite _
  | measure _ kk => exact (s.sameShared_measureBody kk).ownersWrite _
  | setError | clearError | clearAllErrors =>
    refine State.SameShared.ownersWrite (.respond ?_ _ _) _
    exact ⟨rfl, rfl, rfl, rfl⟩
  | wrTarget hp | wrSetupDone hp | wrFseDone hp => constructor <;> simp [hp]

/-- Settles O17: a command writes as its owner or not at all, a synchroniser its own reader's copy, and no other input
but reset any copy. -/
theorem onlyOwnersAndSyncsChangeSharedFields : Obligations.OnlyOwnersAndSyncsChangeSharedFields := by
  intro s t hstep hreset
  obtain ⟨-, rfl⟩ | ⟨p, w, rest, hin, ⟨i, hdec, hrun⟩ | ⟨-, rfl⟩⟩ | ⟨f, rest, hin, rfl⟩ | ⟨rest, hin, -⟩ |
    ⟨c, rest, -, rfl⟩ | ⟨as, rest, -, rfl⟩ := step_cases hstep
  · simp
  · obtain ⟨htarget, hsetup, hfse, hr1, hr2, hr3, hr4⟩ := exec_ownersWrite hrun
    rw [hin]
    refine ⟨fun h => ?_, fun h => ?_, fun h => ?_, absurd hr1, absurd hr2, absurd hr3, absurd hr4⟩
    · obtain ⟨rfl, ss, rfl⟩ := htarget h
      exact ⟨w, ss, rfl, hdec⟩
    · obtain ⟨rfl, v, rfl⟩ := hsetup h
      exact ⟨w, v, rfl, hdec⟩
    · obtain ⟨rfl, v, rfl⟩ := hfse h
      exact ⟨w, v, rfl, hdec⟩
  · simp
  · rw [hin]
    cases f <;> simp [State.sync]
  · simp [hin] at hreset
  · simp
  · simp

end Sys2Proof.Machine

/-! PROOFS. The statements on what a step keeps of the registers and of the event history (spec/20_memory.md): the
synchroniser (R77), the configuration after `INIT` (R93) and the events (R74). -/

namespace Sys2Proof.Machine

/-! ### The synchroniser (R77) -/

/-- A step that takes `SYNC` of a field makes that field's synchroniser step. -/
theorem step_sync {s : State} {f : SharedField} {rest : List Input} (hin : s.inputs = .sync f :: rest) :
    step s = .next (State.sync { s with inputs := rest } f) := by
  simp [step, hin, takeInput]

/-- Settles O16: the synchroniser step of each field, read off its definition. -/
theorem syncCopiesOneField : Obligations.SyncCopiesOneField := by
  intro s f rest hin
  refine ⟨_, step_sync hin, ?_⟩
  cases f <;> exact ⟨rfl, rfl, rfl⟩

/-! ### What a startup tick can do (R165 to R169) -/

/-- The state in which a startup tick has applied its next level. -/
def State.applyNextLevel (s : State) : State :=
  State.setPwm { s with startup := { s.startup with level := BitVec.ofNat 16 s.nextLevel, seeded := true } }
    (BitVec.ofNat 16 s.nextLevel)

/-- A startup tick applies its next level, and hands off where the level reaches the ceiling. -/
theorem State.startupTick_cases (s : State) :
    (s.nextLevel < s.ceiling ∧ s.startupTick = s.applyNextLevel.respond .ok s.applyNextLevel.tickData) ∨
      (s.ceiling ≤ s.nextLevel ∧
        s.startupTick = s.applyNextLevel.handoff.respond .ok s.applyNextLevel.handoff.tickData) := by
  have hbody : s.startupBody = if s.ceiling ≤ s.nextLevel then s.applyNextLevel.handoff else s.applyNextLevel := rfl
  unfold State.startupTick
  by_cases h : s.ceiling ≤ s.nextLevel
  · exact .inr ⟨h, by rw [hbody, if_pos h]⟩
  · exact .inl ⟨Nat.not_le.1 h, by rw [hbody, if_neg h]⟩

/-! ### The registers that a successful `INIT` freezes (R93) -/

/-- The PID registers with the five that run (R46) put to zero: the configured and the derived ones are left. -/
def PidState.withoutRunning (p : PidState) : PidState :=
  { p with kP := F32.zero, e := F32.zero, ePrev := F32.zero, iPrev := F32.zero, dPrev := F32.zero }

/-- With the running registers of `p`, the PID registers that agree with `p` in the other ones are `p`. -/
theorem PidState.eq_of_withoutRunning_eq {p q : PidState} (h : q.withoutRunning = p.withoutRunning) :
    { q with kP := p.kP, e := p.e, ePrev := p.ePrev, iPrev := p.iPrev, dPrev := p.dPrev } = p :=
  congrArg (fun r : PidState => { r with kP := p.kP, e := p.e, ePrev := p.ePrev, iPrev := p.iPrev, dPrev := p.dPrev }) h

/-- What R93 freezes once `INIT` has succeeded, `initialised` included. -/
structure FrozenRegisters where
  initialised : Bool
  speedTable : Vector U16 127
  bemf : BemfState
  rampDelay : U16
  kFf : F32
  rampStep : U16
  adcOffset : F32
  pid : PidState

/-- The registers that R93 freezes, read from the state. -/
def State.frozen (s : State) : FrozenRegisters where
  initialised := s.initialised
  speedTable := s.speedTable
  bemf := s.bemf
  rampDelay := s.rampDelay
  kFf := s.startup.kFf
  rampStep := s.startup.rampStep
  adcOffset := s.meas.adcOffset
  pid := s.pid.withoutRunning

@[simp] theorem State.frozen_respond (s : State) (st : Status) (d : U32) : (s.respond st d).frozen = s.frozen := by
  simp [State.frozen]

@[simp] theorem State.frozen_sync (s : State) (f : SharedField) : (s.sync f).frozen = s.frozen := by
  simp [State.frozen]

@[simp] theorem State.frozen_raise (s : State) (x : ErrorBit) : (s.raise x).frozen = s.frozen := rfl

@[simp] theorem State.frozen_acknowledge (s : State) (b : BitVec 5) : (s.acknowledge b).frozen = s.frozen := rfl

@[simp] theorem State.frozen_afterMeasure (s : State) (d : Direction) : (s.afterMeasure d).frozen = s.frozen := rfl

@[simp] theorem State.frozen_stopBody (s : State) : s.stopBody.frozen = s.frozen := rfl

@[simp] theorem State.frozen_applyNextLevel (s : State) : s.applyNextLevel.frozen = s.frozen := rfl

@[simp] theorem State.frozen_handoff (s : State) : s.handoff.frozen = s.frozen := rfl

@[simp] theorem State.frozen_pidWrite (s : State) (m corrected kp e i d : F32) (level : U16) :
    (s.pidWrite m corrected kp e i d level).frozen = s.frozen := rfl

@[simp] theorem State.frozen_pidCommit (s : State) (m : F32) : (s.pidCommit m).frozen = s.frozen := by
  rw [State.pidCommit, State.frozen_pidWrite]

/-- `INIT` writes the frozen registers, but only where `initialised` is clear (R200). -/
theorem State.frozen_initBody {s : State} (hi : s.initialised = true) : s.initBody.frozen = s.frozen := by
  obtain ⟨-, ht⟩ | ⟨hi', -⟩ | ⟨hi', -⟩ | ⟨hi', -⟩ := s.initBody_cases
  · simp [ht]
  all_goals simp [hi] at hi'

@[simp] theorem State.frozen_startupTick (s : State) : s.startupTick.frozen = s.frozen := by
  obtain ⟨-, ht⟩ | ⟨-, ht⟩ := s.startupTick_cases <;> simp [ht]

@[simp] theorem State.frozen_pidTick (s : State) : s.pidTick.frozen = s.frozen := by
  obtain ⟨-, ht⟩ | ⟨-, ht⟩ | ⟨m, -, -, -, ht⟩ := s.pidTick_cases <;> simp [ht]

@[simp] theorem State.frozen_ctrlTickBody (s : State) : s.ctrlTickBody.frozen = s.frozen := by
  obtain ⟨-, ht⟩ | ⟨-, -, ht⟩ | ⟨-, -, -, ht⟩ | ⟨-, -, -, ht⟩ := s.ctrlTickBody_cases <;> simp [ht]

@[simp] theorem State.frozen_rampTickBody (s : State) : s.rampTickBody.frozen = s.frozen := by
  obtain ⟨-, ht⟩ | ⟨-, sp, d, ht⟩ := s.rampTickBody_cases
  · simp [ht]
  · rw [ht, State.frozen_respond]
    rfl

@[simp] theorem frozen_decodeDirection (kk : U8) (s : State) : (decodeDirection kk s).2.frozen = s.frozen := by
  obtain h | h := decodeDirection_state kk s <;> simp [h]

@[simp] theorem frozen_measure (d : Direction) (s : State) : (measure d s).2.frozen = s.frozen := by
  obtain ⟨-, hm⟩ | ⟨-, -, hm⟩ | ⟨-, -, hm⟩ := measure_cases d s <;> simp [hm]

@[simp] theorem State.frozen_measureBody (s : State) (kk : U8) : (s.measureBody kk).frozen = s.frozen := by
  obtain ⟨st, d, ht⟩ := s.measureBody_eq kk
  simp [ht]

/-- Once `INIT` has succeeded no command changes a frozen register. -/
theorem exec_frozen {i : Instr} {s t : State} (hi : s.initialised = true) (hrun : exec i s = .next t) :
    t.frozen = s.frozen := by
  cases exec_does hrun with
  | answer => simp
  | init => exact State.frozen_initBody hi
  | ctrlTick => simp
  | rampTick => simp
  | measure => simp
  | setError | clearError | clearAllErrors | wrTarget | wrSetupDone | wrFseDone =>
    rw [State.frozen_respond]
    rfl

/-- Once `INIT` has succeeded no step but reset changes a frozen register. -/
theorem step_frozen {s t : State} (hi : s.initialised = true) (hreset : s.inputs.head? ≠ some .reset)
    (hstep : step s = .next t) : t.frozen = s.frozen := by
  obtain ⟨-, rfl⟩ | ⟨p, w, rest, -, ⟨i, -, hrun⟩ | ⟨-, rfl⟩⟩ | ⟨f, rest, -, rfl⟩ | ⟨rest, hin, -⟩ |
    ⟨c, rest, -, rfl⟩ | ⟨as, rest, -, rfl⟩ := step_cases hstep
  · rfl
  · exact exec_frozen (s := { s with inputs := rest, port := p }) hi hrun
  · exact State.frozen_respond ..
  · exact State.frozen_sync ..
  · simp [hin] at hreset
  · rfl
  · rfl

/-- Settles O42: the frozen registers stay, and they hold all but the five running PID registers. -/
theorem configurationIsFrozenAfterInit : Obligations.ConfigurationIsFrozenAfterInit := by
  intro s t hi hreset hstep
  have hfrozen := step_frozen hi hreset hstep
  simp only [State.frozen, FrozenRegisters.mk.injEq] at hfrozen
  obtain ⟨hinit, htable, hbemf, hdelay, hkFf, hramp, hoffset, hpid⟩ := hfrozen
  exact ⟨hinit.trans hi, htable, hbemf, hdelay, hkFf, hramp, hoffset, PidState.eq_of_withoutRunning_eq hpid⟩

/-! ### The event history grows (R74) -/

theorem State.events_prefix_afterMeasure (s : State) (d : Direction) : s.events <+: (s.afterMeasure d).events :=
  List.prefix_append ..

theorem State.events_prefix_initBody (s : State) : s.events <+: s.initBody.events := by
  obtain ⟨-, ht⟩ | ⟨-, -, ht⟩ | ⟨-, -, -, ht⟩ | ⟨-, -, -, ht⟩ := s.initBody_cases <;> simp [ht]

theorem State.events_prefix_startupTick (s : State) : s.events <+: s.startupTick.events := by
  obtain ⟨-, ht⟩ | ⟨-, ht⟩ := s.startupTick_cases <;> simp [ht, State.applyNextLevel]

theorem State.events_prefix_pidTick (s : State) : s.events <+: s.pidTick.events := by
  have hmeasure := s.events_prefix_afterMeasure (directionOf s.target.r)
  obtain ⟨-, ht⟩ | ⟨-, ht⟩ | ⟨m, -, -, -, ht⟩ := s.pidTick_cases
  · simp [ht]
  · simpa [ht] using hmeasure
  · simpa [ht] using hmeasure.trans (List.prefix_append ..)

theorem State.events_prefix_ctrlTickBody (s : State) : s.events <+: s.ctrlTickBody.events := by
  obtain ⟨-, ht⟩ | ⟨-, -, ht⟩ | ⟨-, -, -, ht⟩ | ⟨-, -, -, ht⟩ := s.ctrlTickBody_cases <;> rw [ht]
  · simp
  · simp
  · exact s.events_prefix_startupTick
  · exact s.events_prefix_pidTick

theorem events_prefix_measure (d : Direction) (s : State) : s.events <+: (measure d s).2.events := by
  have hmeasure := s.events_prefix_afterMeasure d
  obtain ⟨-, hm⟩ | ⟨-, -, hm⟩ | ⟨-, -, hm⟩ := measure_cases d s <;> rw [hm]
  · simp
  · exact hmeasure
  · exact hmeasure

@[simp] theorem events_decodeDirection (kk : U8) (s : State) : (decodeDirection kk s).2.events = s.events := by
  obtain h | h := decodeDirection_state kk s <;> simp [h]

theorem State.events_prefix_measureBody (s : State) (kk : U8) : s.events <+: (s.measureBody kk).events := by
  obtain ⟨st, d, ht⟩ := s.measureBody_eq kk
  simpa [ht] using events_prefix_measure (decodeDirection kk s).1 (decodeDirection kk s).2

@[simp] theorem State.events_rampTickBody (s : State) : s.rampTickBody.events = s.events := by
  obtain ⟨-, ht⟩ | ⟨-, sp, d, ht⟩ := s.rampTickBody_cases <;> simp [ht]

/-- The commands that may emit events. -/
def EmitsEvents (i : Instr) : Prop := i = .init ∨ i = .ctrlTick ∨ ∃ kk, i = .measure kk

/-- A command leaves the event history as it is, or is one of the three that emit events, on port C, and appends. -/
theorem exec_events {i : Instr} {s t : State} (hrun : exec i s = .next t) :
    t.events = s.events ∨ (s.port = .c ∧ EmitsEvents i ∧ s.events <+: t.events) := by
  cases exec_does hrun with
  | init hp => exact .inr ⟨hp, .inl rfl, s.events_prefix_initBody⟩
  | ctrlTick hp => exact .inr ⟨hp, .inr (.inl rfl), s.events_prefix_ctrlTickBody⟩
  | measure hp kk => exact .inr ⟨hp, .inr (.inr ⟨kk, rfl⟩), s.events_prefix_measureBody kk⟩
  | answer | rampTick | setError | clearError | clearAllErrors | wrTarget | wrSetupDone | wrFseDone =>
    exact .inl (by simp)

/-- A step but reset leaves the event history as it is, or runs one of the three commands and appends. -/
theorem step_events {s t : State} (hstep : step s = .next t) (hreset : s.inputs.head? ≠ some .reset) :
    t.events = s.events ∨
      ((∃ w i, s.inputs.head? = some (.command .c w) ∧ decode w = .ok i ∧ EmitsEvents i) ∧ s.events <+: t.events) := by
  obtain ⟨-, rfl⟩ | ⟨p, w, rest, hin, ⟨i, hdec, hrun⟩ | ⟨-, rfl⟩⟩ | ⟨f, rest, -, rfl⟩ | ⟨rest, hin, -⟩ |
    ⟨c, rest, -, rfl⟩ | ⟨as, rest, -, rfl⟩ := step_cases hstep
  · exact .inl rfl
  · obtain hsame | ⟨rfl, hemits, hprefix⟩ := exec_events hrun
    · exact .inl hsame
    · exact .inr ⟨⟨w, i, by rw [hin]; rfl, hdec, hemits⟩, hprefix⟩
  · exact .inl (State.respond_events ..)
  · exact .inl (State.sync_events ..)
  · simp [hin] at hreset
  · exact .inl rfl
  · exact .inl rfl

/-- Settles O54: nothing is appended, or what one of the three commands appends. -/
theorem eventsAreOnlyAppended : Obligations.EventsAreOnlyAppended := by
  intro s t hstep hreset
  obtain hsame | ⟨⟨w, i, hhead, hdec, hemits⟩, es, hes⟩ := step_events hstep hreset
  · exact ⟨[], by simp [hsame], by simp⟩
  · refine ⟨es, hes.symm, fun _ => ⟨w, hhead, ?_⟩⟩
    obtain rfl | rfl | ⟨kk, rfl⟩ := hemits
    · exact .inl hdec
    · exact .inr (.inl hdec)
    · exact .inr (.inr ⟨kk, hdec⟩)

end Sys2Proof.Machine

/-! PROOFS. The statements on the encoding (spec/30_encoding.md): decoder and encoder (R102, R106 to R114, R118, R119),
the response to a word (R104, R105, R113) and the pseudo-commands (R122). -/

namespace Sys2Proof

/-! ### The operand formats: which bytes each admits, and what it reads (R106 to R112) -/

/-- What a format's check lets through is read. -/
theorem ite_ok_eq_ok_iff {c : Prop} [Decidable c] {i j : Instr} {e : Illegal} :
    (if c then Except.ok i else Except.error e) = .ok j ↔ c ∧ i = j := by
  split <;> simp [*]

/-- Format N admits the byte 0 alone (R106). -/
theorem formatN_eq_ok {w : U16} {i j : Instr} : formatN w i = .ok j ↔ imm8Field w = 0 ∧ i = j :=
  ite_ok_eq_ok_iff

/-- Format E admits a bit index below three zero bits (R108). -/
theorem formatE_eq_ok {w : U16} {f : BitVec 5 → Instr} {j : Instr} :
    formatE w f = .ok j ↔ ∃ b, imm8Field w = 0#3 ++ b ∧ f b = j := by
  have hread : ∀ imm : U8, imm.extractLsb' 5 3 = 0 → imm = 0#3 ++ imm.extractLsb' 0 5 := by decide
  have hwritten : ∀ b : BitVec 5, (0#3 ++ b).extractLsb' 5 3 = 0 ∧ (0#3 ++ b).extractLsb' 0 5 = b := by decide
  rw [formatE, ite_ok_eq_ok_iff]
  constructor
  · rintro ⟨hzero, rfl⟩
    exact ⟨_, hread _ hzero, rfl⟩
  · rintro ⟨b, himm, rfl⟩
    obtain ⟨hzero, hindex⟩ := hwritten b
    exact ⟨himm ▸ hzero, by rw [himm, hindex]⟩

/-- Format B admits a boolean below seven zero bits (R109). -/
theorem formatB_eq_ok {w : U16} {f : Bool → Instr} {j : Instr} :
    formatB w f = .ok j ↔ ∃ v, imm8Field w = 0#7 ++ BitVec.ofBool v ∧ f v = j := by
  have hread : ∀ imm : U8, imm.extractLsb' 1 7 = 0 → imm = 0#7 ++ BitVec.ofBool (imm.getLsbD 0) := by decide
  have hwritten : ∀ v : Bool,
      (0#7 ++ BitVec.ofBool v).extractLsb' 1 7 = 0 ∧ (0#7 ++ BitVec.ofBool v).getLsbD 0 = v := by decide
  rw [formatB, ite_ok_eq_ok_iff]
  constructor
  · rintro ⟨hzero, rfl⟩
    exact ⟨_, hread _ hzero, rfl⟩
  · rintro ⟨v, himm, rfl⟩
    obtain ⟨hzero, hvalue⟩ := hwritten v
    exact ⟨himm ▸ hzero, by rw [himm, hvalue]⟩

/-- Format X admits every byte but the reserved ones (R112). -/
theorem formatX_eq_ok {w : U16} {f : U8 → Instr} {j : Instr} :
    formatX w f = .ok j ↔ Machine.reservedIndex (imm8Field w) = false ∧ f (imm8Field w) = j := by
  unfold formatX
  split <;> rename_i himm <;> simp [himm]

/-! ### Decoder and encoder -/

theorem decode_encode {i : Instr} (hwf : i.wf = true) : decode (encode i) = .ok i := by
  have himm := imm8Field_encode i
  unfold decode
  rw [opcodeField_encode]
  cases i with
  | directionOf | tableIndexOf | decodeStep | measure | getKp | wrTarget => rw [himm]; rfl
  | init | ctrlTick | rampTick | getInitialLevel | clearAllErrors | getErrorState | rdTarget | rdTargetPrev
  | rdSetupDone | rdFseDone => exact formatN_eq_ok.2 ⟨himm, rfl⟩
  | setError b | clearError b => exact formatE_eq_ok.2 ⟨b, himm, rfl⟩
  | wrSetupDone v | wrFseDone v => exact formatB_eq_ok.2 ⟨v, himm, rfl⟩
  | rdState xx =>
    refine formatX_eq_ok.2 ?_
    rw [himm]
    exact ⟨by simpa [Instr.wf, Instr.imm8] using hwf, rfl⟩

/-- A word that decodes has the opcode and the operand byte of its command, which is well-formed. -/
theorem fields_of_decode {w : U16} {i : Instr} (h : decode w = .ok i) :
    opcodeField w = i.opcode ∧ imm8Field w = i.imm8 ∧ i.wf = true := by
  unfold decode at h
  split at h <;> rename_i hop
  -- formats S, K and V, then N, E, B and X; the last branch is every other opcode
  case h_1 | h_2 | h_3 | h_7 | h_8 | h_14 =>
    obtain rfl := Except.ok.inj h
    exact ⟨BitVec.eq_of_toNat_eq hop, rfl, rfl⟩
  case h_4 | h_5 | h_6 | h_9 | h_12 | h_13 | h_17 | h_18 | h_19 | h_20 =>
    obtain ⟨himm, rfl⟩ := formatN_eq_ok.1 h
    exact ⟨BitVec.eq_of_toNat_eq hop, himm, rfl⟩
  case h_10 | h_11 =>
    obtain ⟨b, himm, rfl⟩ := formatE_eq_ok.1 h
    exact ⟨BitVec.eq_of_toNat_eq hop, himm, rfl⟩
  case h_15 | h_16 =>
    obtain ⟨v, himm, rfl⟩ := formatB_eq_ok.1 h
    exact ⟨BitVec.eq_of_toNat_eq hop, himm, rfl⟩
  case h_21 =>
    obtain ⟨hindex, rfl⟩ := formatX_eq_ok.1 h
    exact ⟨BitVec.eq_of_toNat_eq hop, rfl, by simp [Instr.wf, hindex]⟩
  case h_22 => nomatch h

/-- Settles O1: each format reads back the operand that the encoder wrote. -/
theorem decodingTheEncodingGivesTheCommand : Obligations.DecodingTheEncodingGivesTheCommand :=
  fun _ => decode_encode

/-- Settles O2: a word is its two fields, and both are its command's. -/
theorem decodedWordIsTheEncodingOfItsCommand : Obligations.DecodedWordIsTheEncodingOfItsCommand := by
  intro w i h
  obtain ⟨hop, himm, hwf⟩ := fields_of_decode h
  exact ⟨by rw [encode, ← hop, ← himm, word_eq_fields], hwf⟩

/-- Settles O3: the words evaluated. -/
theorem wordsOfTheMapDecode : Obligations.WordsOfTheMapDecode := by
  unfold Obligations.WordsOfTheMapDecode
  decide

/-! ### Illegal words (R118) -/

theorem toNat_opcodeField (w : U16) : (opcodeField w).toNat = w.toNat / 256 := by
  have := w.isLt
  simp only [opcodeField, BitVec.extractLsb'_toNat, Nat.shiftRight_eq_div_pow]
  omega

theorem toNat_imm8Field (w : U16) : (imm8Field w).toNat = w.toNat % 256 := by
  simp [imm8Field]

/-- A format reads some command exactly when its check lets the byte through. -/
theorem exists_ite_ok_iff {c : Prop} [Decidable c] (i : Instr) (e : Illegal) :
    (∃ j, (if c then Except.ok i else Except.error e) = .ok j) ↔ c := by
  simp [ite_ok_eq_ok_iff]

/-- A word of format N decodes exactly when its byte is 0 (R106). -/
theorem exists_formatN_iff (w : U16) (i : Instr) : (∃ j, formatN w i = .ok j) ↔ w.toNat % 256 = 0 := by
  rw [formatN, exists_ite_ok_iff, ← toNat_imm8Field, ← BitVec.toNat_inj]
  rfl

/-- A word of format E decodes exactly when its byte is below 32 (R108). -/
theorem exists_formatE_iff (w : U16) (f : BitVec 5 → Instr) : (∃ j, formatE w f = .ok j) ↔ w.toNat % 256 < 32 := by
  have hbyte : ∀ imm : U8, imm.extractLsb' 5 3 = 0 ↔ imm.toNat < 32 := by decide
  rw [formatE, exists_ite_ok_iff, ← toNat_imm8Field, hbyte]

/-- A word of format B decodes exactly when its byte is below 2 (R109). -/
theorem exists_formatB_iff (w : U16) (f : Bool → Instr) : (∃ j, formatB w f = .ok j) ↔ w.toNat % 256 < 2 := by
  have hbyte : ∀ imm : U8, imm.extractLsb' 1 7 = 0 ↔ imm.toNat < 2 := by decide
  rw [formatB, exists_ite_ok_iff, ← toNat_imm8Field, hbyte]

/-- A word of format X decodes exactly when its byte is not a reserved index (R112, R250). -/
theorem exists_formatX_iff (w : U16) (f : U8 → Instr) :
    (∃ j, formatX w f = .ok j) ↔
      ¬ (w.toNat % 256 = 0x7F ∨ (0x9C ≤ w.toNat % 256 ∧ w.toNat % 256 ≤ 0x9F) ∨ w.toNat % 256 = 0xAF ∨
        (0xB8 ≤ w.toNat % 256 ∧ w.toNat % 256 ≤ 0xBF) ∨ (0xC9 ≤ w.toNat % 256 ∧ w.toNat % 256 ≤ 0xCF) ∨
        0xD5 ≤ w.toNat % 256) := by
  simp only [formatX_eq_ok, exists_and_left, exists_eq', and_true, Machine.reservedIndex, toNat_imm8Field]
  simp [and_assoc]

end Sys2Proof

namespace Sys2Proof.Machine

/-! ### A step that takes a word (R113) -/

/-- A step whose next input is a word accepts it at its port. -/
theorem step_command {s : State} {p : Port} {w : U16} {rest : List Input} (hin : s.inputs = .command p w :: rest) :
    step s = acceptWord w { s with inputs := rest, port := p } := by
  rw [step, hin]
  rfl

theorem acceptWord_of_decode {w : U16} {i : Instr} (h : decode w = .ok i) (s : State) : acceptWord w s = exec i s := by
  simp [acceptWord, h]

theorem acceptWord_of_illegal {w : U16} (h : ¬ ∃ i, decode w = .ok i) (s : State) :
    acceptWord w s = .next (s.respond .illegal 0) := by
  unfold acceptWord
  split
  · exact absurd ⟨_, ‹_›⟩ h
  · rfl

/-- Settles O6: the word is accepted and decodes. -/
theorem stepRunsTheDecodedCommand : Obligations.StepRunsTheDecodedCommand :=
  fun _ _ _ _ _ hin hdec => (step_command hin).trans (acceptWord_of_decode hdec _)

/-- Settles O4: what the decoder refuses, opcode by opcode and format by format, and the step's answer to it. -/
theorem illegalWordsChangeNothing : Obligations.IllegalWordsChangeNothing := by
  intro w
  dsimp only
  refine ⟨?_, fun hbad p rest s hin => ⟨_, (step_command hin).trans (acceptWord_of_illegal hbad _),
    State.respond_onlyAnswers ..⟩⟩
  have hgroup : w.toNat / 4096 = w.toNat / 256 / 16 := by omega
  rw [decode, toNat_opcodeField]
  split <;> rename_i hop
  -- formats S, K and V, then N, E, B and X
  case h_1 | h_2 | h_3 | h_7 | h_8 | h_14 => simp [hgroup, hop]
  case h_4 | h_5 | h_6 | h_9 | h_12 | h_13 | h_17 | h_18 | h_19 | h_20 =>
    rw [exists_formatN_iff]
    simp [hgroup, hop]
  case h_10 | h_11 =>
    rw [exists_formatE_iff, Nat.not_lt]
    simp [hgroup, hop]
  case h_15 | h_16 =>
    rw [exists_formatB_iff, Nat.not_lt]
    simp [hgroup, hop]
  case h_21 =>
    rw [exists_formatX_iff, not_not]
    simp [hgroup, hop]
  -- every other opcode: a sum of a group and a func that the map does not assign
  case h_22 =>
    simp only [reduceCtorEq, exists_false, not_false_eq_true, true_iff]
    grind

/-! ### The word placed (R103) -/

/-- A command's word is placed at port D where only port D may use it. -/
theorem portFor_encode {i : Instr} (hwf : i.wf = true) :
    portFor (encode i) = if i.ports.allows .c then .c else .d := by
  simp [portFor, decode_encode hwf]

/-- Settles O8: the placed word is the command's, and decodes to it. -/
theorem placedWordIsTheNextRun : Obligations.PlacedWordIsTheNextRun := by
  intro i s hwf
  have hword : BitVec.ofNat 16 ((encode i).toNat % 2 ^ 16) = encode i := by
    rw [Nat.mod_eq_of_lt (encode i).isLt, BitVec.ofNat_toNat, BitVec.setWidth_eq]
  have hin : (s.withFetchWord 16 (encode i).toNat).inputs = .command (portFor (encode i)) (encode i) :: s.inputs := by
    rw [State.withFetchWord, hword]
  rw [step_command hin, acceptWord_of_decode (decode_encode hwf), portFor_encode hwf]
  cases i <;> rfl

/-! ### The one response of a word (R104, R105) -/

/-- The command's port and the two responses are the same in `s` and `t`. -/
structure State.SameResponder (s t : State) : Prop where
  port : t.port = s.port
  respC : t.respC = s.respC
  respD : t.respD = s.respD

/-- From `s` the command answered once: with a refusal and nothing else, or, last of all, with `OK` or `FAULT`. -/
inductive State.AnswersOnce (s : State) : State → Prop where
  | refusal (st : Status) : s.AnswersOnce (s.respond st 0)
  | ok {t : State} (d : U32) (hsame : s.SameResponder t := by exact ⟨rfl, rfl, rfl⟩) : s.AnswersOnce (t.respond .ok d)
  | fault {t : State} (d : U32) (hsame : s.SameResponder t := by exact ⟨rfl, rfl, rfl⟩) :
      s.AnswersOnce (t.respond .fault d)

theorem State.SameResponder.returns {s t : State} (h : s.SameResponder t) (st : Status) (d : U32) :
    s.Returns (t.respond st d) ⟨st, d⟩ :=
  State.returns_respond_of h.port h.respC h.respD

theorem State.AnswersOnce.returns {s t : State} (h : s.AnswersOnce t) :
    ∃ r, s.Returns t r ∧ (r.status ≠ .ok → r.status ≠ .fault → r.data = 0 ∧ s.OnlyAnswers t r) := by
  cases h with
  | refusal st => exact ⟨⟨st, 0⟩, s.respond_returns st 0, fun _ _ => ⟨rfl, s.respond_onlyAnswers st 0⟩⟩
  | ok d hsame => exact ⟨⟨.ok, d⟩, hsame.returns _ _, fun hok => absurd rfl hok⟩
  | fault d hsame => exact ⟨⟨.fault, d⟩, hsame.returns _ _, fun _ hfault => absurd rfl hfault⟩

theorem State.answersOnce_initBody (s : State) : s.AnswersOnce s.initBody := by
  obtain ⟨-, ht⟩ | ⟨-, -, ht⟩ | ⟨-, -, -, ht⟩ | ⟨-, -, -, ht⟩ := s.initBody_cases <;> rw [ht]
  · exact .refusal _
  · exact .refusal _
  · exact .fault _
  · exact .ok _

theorem State.answersOnce_startupTick (s : State) : s.AnswersOnce s.startupTick := by
  obtain ⟨-, ht⟩ | ⟨-, ht⟩ := s.startupTick_cases <;> rw [ht] <;> exact .ok _

theorem State.answersOnce_pidTick (s : State) : s.AnswersOnce s.pidTick := by
  obtain ⟨-, ht⟩ | ⟨-, ht⟩ | ⟨m, -, -, -, ht⟩ := s.pidTick_cases <;> rw [ht]
  · exact .fault _
  · exact .fault _
  · exact .ok _ ⟨State.pidCommit_port .., State.pidCommit_respC .., State.pidCommit_respD ..⟩

theorem State.answersOnce_ctrlTickBody (s : State) : s.AnswersOnce s.ctrlTickBody := by
  obtain ⟨-, ht⟩ | ⟨-, -, ht⟩ | ⟨-, -, -, ht⟩ | ⟨-, -, -, ht⟩ := s.ctrlTickBody_cases <;> rw [ht]
  · exact .refusal _
  · exact .ok _
  · exact s.answersOnce_startupTick
  · exact s.answersOnce_pidTick

theorem State.answersOnce_rampTickBody (s : State) : s.AnswersOnce s.rampTickBody := by
  obtain ⟨-, ht⟩ | ⟨-, sp, d, ht⟩ := s.rampTickBody_cases <;> rw [ht]
  · exact .refusal _
  · exact .ok _

theorem State.sameResponder_decodeDirection (kk : U8) (s : State) : s.SameResponder (decodeDirection kk s).2 := by
  obtain hd | hd := decodeDirection_state kk s <;> rw [hd] <;> exact ⟨rfl, rfl, rfl⟩

/-- `MEASURE` answers once, with `OK` or `FAULT` (R140). -/
theorem State.answersOnce_measureBody (s : State) (kk : U8) : s.AnswersOnce (s.measureBody kk) := by
  have hdir := s.sameResponder_decodeDirection kk
  unfold State.measureBody
  generalize decodeDirection kk s = decoded at hdir ⊢
  obtain ⟨d, s'⟩ := decoded
  obtain ⟨-, hm⟩ | ⟨-, -, hm⟩ | ⟨-, -, hm⟩ := measure_cases d s' <;> simp only [hm]
  · exact .fault _ { hdir with }
  · exact .fault _ { hdir with }
  · exact .ok _ { hdir with }

/-- On a permitted port the body answers; on the other the refusal does (R103). -/
theorem onPorts_answersOnce {ports : PortSet} {s : State} {body : State → State} (hbody : s.AnswersOnce (body s)) :
    ∃ t, onPorts ports s body = .next t ∧ s.AnswersOnce t := by
  obtain ⟨-, hnext⟩ | ⟨-, hnext⟩ := onPorts_next ports s body
  · exact ⟨_, hnext, hbody⟩
  · exact ⟨_, hnext, .refusal _⟩

/-- Every command answers a next state, with one response. -/
theorem exec_answersOnce (i : Instr) (s : State) : ∃ t, exec i s = .next t ∧ s.AnswersOnce t := by
  cases i with
  | init => exact onPorts_answersOnce s.answersOnce_initBody
  | ctrlTick => exact onPorts_answersOnce s.answersOnce_ctrlTickBody
  | rampTick => exact onPorts_answersOnce s.answersOnce_rampTickBody
  | measure kk => exact onPorts_answersOnce (s.answersOnce_measureBody kk)
  | rdState xx =>
    cases hr : regRead s xx with
    | none => exact ⟨_, exec_rdState_reserved hr, .refusal _⟩
    | some v =>
      rw [exec_rdState hr]
      exact onPorts_answersOnce (.ok v)
  | directionOf | tableIndexOf | decodeStep | getKp | getInitialLevel | setError | clearError | clearAllErrors
  | getErrorState | wrTarget | wrSetupDone | wrFseDone | rdTarget | rdTargetPrev | rdSetupDone | rdFseDone =>
    simp only [exec_directionOf, exec_tableIndexOf, exec_decodeStep, exec_getKp, exec_getInitialLevel, exec_setError,
      exec_clearError, exec_clearAllErrors, exec_getErrorState, exec_wrTarget, exec_wrSetupDone, exec_wrFseDone,
      exec_rdTarget, exec_rdTargetPrev, exec_rdSetupDone, exec_rdFseDone]
    refine onPorts_answersOnce ?_
    exact .ok _

/-- Settles O9: the word's command answers once, or the word is answered `ILLEGAL`. -/
theorem everyWordReturnsOneResponse : Obligations.EveryWordReturnsOneResponse := by
  intro s p w rest hin
  rw [step_command hin]
  by_cases hdec : ∃ i, decode w = .ok i
  · obtain ⟨i, hdec⟩ := hdec
    obtain ⟨t, hnext, honce⟩ := exec_answersOnce i { s with inputs := rest, port := p }
    obtain ⟨r, hr⟩ := honce.returns
    exact ⟨t, r, (acceptWord_of_decode hdec _).trans hnext, hr⟩
  · obtain ⟨r, hr⟩ := (State.AnswersOnce.refusal (s := { s with inputs := rest, port := p }) .illegal).returns
    exact ⟨_, r, acceptWord_of_illegal hdec _, hr⟩

/-! ### The pseudo-commands (R122) -/

/-- The set bits of a mask, in ascending order. -/
def maskBits (m : U32) : List (BitVec 5) :=
  ((List.range 32).filter fun b => m.getLsbD b).map (BitVec.ofNat 5)

theorem setErrorMask_eq_map (m : U32) : setErrorMask m = (maskBits m).map .setError := by
  simp [setErrorMask, maskBits]

theorem mem_maskBits {m : U32} {b : BitVec 5} : b ∈ maskBits m ↔ m.getLsbD b.toNat = true := by
  simp only [maskBits, List.mem_map, List.mem_filter, List.mem_range]
  constructor
  · rintro ⟨k, ⟨hk, hm⟩, rfl⟩
    rwa [BitVec.toNat_ofNat, Nat.mod_eq_of_lt hk]
  · exact fun hm => ⟨b.toNat, ⟨b.isLt, hm⟩, by simp⟩

theorem maskBits_ascending (m : U32) : (maskBits m).Pairwise fun a b => a.toNat < b.toNat := by
  rw [maskBits, List.pairwise_map]
  refine (List.pairwise_lt_range.filter _).imp_of_mem fun {a b} ha hb hlt => ?_
  have ha := List.mem_range.1 (List.mem_filter.1 ha).1
  have hb := List.mem_range.1 (List.mem_filter.1 hb).1
  rwa [BitVec.toNat_ofNat, BitVec.toNat_ofNat, Nat.mod_eq_of_lt ha, Nat.mod_eq_of_lt hb]

/-- The bits of `error_state` after one bit is set (R240). -/
theorem getLsbD_setErrorBit (e : U32) (b : BitVec 5) (k : Nat) :
    (setErrorBit e b).getLsbD k = (e.getLsbD k || b.toNat == k) := by
  have hb : b.toNat < 32 := b.isLt
  rw [setErrorBit, errorMask, BitVec.getLsbD_or, ← BitVec.twoPow_eq, BitVec.getLsbD_twoPow, decide_eq_true hb,
    Bool.true_and]
  rfl

/-- Setting bit after bit sets them all. -/
theorem getLsbD_foldl_setErrorBit (bs : List (BitVec 5)) (e : U32) (k : Nat) :
    (bs.foldl setErrorBit e).getLsbD k = (e.getLsbD k || bs.any (·.toNat == k)) := by
  induction bs generalizing e with
  | nil => simp
  | cons b bs ih => rw [List.foldl_cons, ih, getLsbD_setErrorBit, List.any_cons, Bool.or_assoc]

/-- Setting the bits of a mask ORs it into `error_state`. -/
theorem foldl_setErrorBit_maskBits (m e : U32) : (maskBits m).foldl setErrorBit e = e ||| m := by
  apply BitVec.eq_of_getLsbD_eq
  intro k hk
  rw [getLsbD_foldl_setErrorBit, BitVec.getLsbD_or]
  congr 1
  rw [Bool.eq_iff_iff, List.any_eq_true]
  constructor
  · rintro ⟨b, hb, hbk⟩
    exact beq_iff_eq.1 hbk ▸ mem_maskBits.1 hb
  · intro hm
    have hnat : (BitVec.ofNat 5 k).toNat = k := Nat.mod_eq_of_lt hk
    exact ⟨BitVec.ofNat 5 k, mem_maskBits.2 (hnat.symm ▸ hm), beq_iff_eq.2 hnat⟩

/-- A step that takes a `SET_ERROR` word sets the bit, at either port (R240). -/
theorem step_setError {s : State} {p : Port} {b : BitVec 5} {rest : List Input}
    (hin : s.inputs = .command p (encode (.setError b)) :: rest) :
    ∃ t, step s = .next t ∧ t.errorState = setErrorBit s.errorState b ∧ t.inputs = rest := by
  rw [step_command hin, acceptWord_of_decode (decode_encode rfl), exec_setError,
    onPorts_allowed (PortSet.both_allows _)]
  exact ⟨_, rfl, by simp, by simp⟩

theorem run_succ_of_step {M : Host.Core} {s t : M.State} (h : M.step s = .next t) (k : Nat) :
    M.run (k + 1) s = M.run k t := by
  simp [Host.Core.run, h]

/-- A run of `SET_ERROR` words sets one bit after the other. -/
theorem run_setErrors {p : Port} {rest : List Input} (bs : List (BitVec 5)) (s : State)
    (hin : s.inputs = bs.map (fun b => .command p (encode (.setError b))) ++ rest) :
    ∃ t, Host.Core.run core bs.length s = .next t ∧ t.errorState = bs.foldl setErrorBit s.errorState ∧
      t.inputs = rest := by
  induction bs generalizing s with
  | nil => exact ⟨s, rfl, rfl, hin⟩
  | cons b bs ih =>
    obtain ⟨s', hstep, herror, hin'⟩ := step_setError hin
    obtain ⟨t, hrun, ht⟩ := ih s' hin'
    rw [herror] at ht
    exact ⟨t, (run_succ_of_step (M := core) hstep _).trans hrun, ht⟩

/-- Settles O59: the expansion is the list of the mask's bits, run bit by bit; the byte is its two fields. -/
theorem pseudoCommandsExpand : Obligations.PseudoCommandsExpand := by
  refine ⟨fun m => ⟨?_, ?_, ?_⟩, fun m p s rest hin => ?_, fun d v => ⟨d.code ++ v, rfl, ?_⟩⟩
  · simp only [setErrorMask_eq_map, List.forall_mem_map]
    exact fun b hb => ⟨b, rfl, mem_maskBits.1 hb⟩
  · intro b hb
    rw [setErrorMask_eq_map]
    exact List.mem_map_of_mem (mem_maskBits.2 hb)
  · rw [setErrorMask_eq_map, List.pairwise_map]
    exact (maskBits_ascending m).imp fun hlt => ⟨_, _, rfl, rfl, hlt⟩
  · rw [setErrorMask_eq_map, List.map_map] at hin
    obtain ⟨t, hrun, herror, hrest⟩ := run_setErrors (maskBits m) s hin
    refine ⟨t, ?_, herror.trans (foldl_setErrorBit_maskBits m _), hrest⟩
    rwa [setErrorMask_eq_map, List.length_map]
  · rw [BitVec.toNat_append, ← Nat.shiftLeft_add_eq_or_of_lt v.isLt, Nat.shiftLeft_eq]
    cases d <;> simp [Direction.code]

end Sys2Proof.Machine

/-! PROOFS. The statements on the speed-step codec (spec/40_codec.md): the lookups of a speed step (R131 to R133) and the
commands that return them (R134 to R136). -/

namespace Sys2Proof.Machine

/-! ### The lookups of a speed step as numbers (R116, R117, R131 to R133) -/

/-- The direction's code is bit 7 of the step (R116, R131). -/
theorem toNat_code_directionOf (step : U8) : (directionOf step).code.toNat = step.toNat / 128 := by
  have := step.isLt
  unfold directionOf
  split
  · show 1 = step.toNat / 128
    omega
  · show 0 = step.toNat / 128
    omega

theorem toNat_stepIndexOf (step : U8) : (stepIndexOf step).toNat = step.toNat % 128 := by
  simp [stepIndexOf]

theorem val_tableIndexOf (step : U8) :
    (tableIndexOf step).val = if step.toNat % 128 ≤ 1 then 0 else step.toNat % 128 - 1 := by
  dsimp only [tableIndexOf]
  split <;> rfl

/-- The class tells the step indices 0 and 1 from all others (R117, R133). -/
theorem toNat_classOf (step : U8) :
    (classOf step).toNat = if step.toNat % 128 = 0 then 0 else if step.toNat % 128 = 1 then 1 else 2 := by
  have hzero : stepIndexOf step = 0 ↔ step.toNat % 128 = 0 := by
    rw [← BitVec.toNat_inj, toNat_stepIndexOf]; rfl
  have hone : stepIndexOf step = 1 ↔ step.toNat % 128 = 1 := by
    rw [← BitVec.toNat_inj, toNat_stepIndexOf]; rfl
  simp only [classOf, hzero, hone]
  split_ifs <;> rfl

/-! ### The data of the responses -/

/-- Two fields side by side, read as a number. -/
theorem toNat_append_eq_mul_add {m n : Nat} (x : BitVec m) (y : BitVec n) :
    (x ++ y).toNat = x.toNat * 2 ^ n + y.toNat := by
  rw [BitVec.toNat_append, ← Nat.shiftLeft_add_eq_or_of_lt y.isLt, Nat.shiftLeft_eq]

/-- The four fields of the data of `DECODE_STEP`, each at its place (R123, R136). -/
theorem toNat_decodeStepData (step : U8) :
    (decodeStepData step).toNat =
      (((directionOf step).code.toNat * 2 ^ 2 + (classOf step).toNat) * 2 ^ 7 + (stepIndexOf step).toNat) * 2 ^ 7 +
        (tableIndexOf step).val := by
  have hindex : (BitVec.ofNat 7 (tableIndexOf step).val).toNat = (tableIndexOf step).val :=
    Nat.mod_eq_of_lt (Nat.lt_succ_of_lt (tableIndexOf step).isLt)
  rw [decodeStepData, zext32, BitVec.toNat_setWidth_of_le (by decide)]
  simp only [toNat_append_eq_mul_add, hindex]

theorem toNat_ofNat_tableIndexOf (step : U8) :
    (BitVec.ofNat 32 (tableIndexOf step).val).toNat = (tableIndexOf step).val :=
  Nat.mod_eq_of_lt ((tableIndexOf step).isLt.trans (by decide))

theorem zext32_code_directionOf (step : U8) :
    zext32 (directionOf step).code = if 128 ≤ step.toNat then 1 else 0 := by
  unfold directionOf
  split <;> rfl

/-! ### The commands (R134 to R136) -/

/-- A command that either port may use and that only answers gives that answer and changes nothing. -/
theorem onPorts_both_onlyAnswers (s : State) (st : Status) (d : U32) :
    onPorts .both s (fun s => s.respond st d) = .next (s.respond st d) ∧
      s.OnlyAnswers (s.respond st d) ⟨st, d⟩ :=
  ⟨onPorts_allowed (PortSet.both_allows _) _, s.respond_onlyAnswers st d⟩

/-- Settles O10: the code of the direction, widened. -/
theorem directionOfReturnsTheTopBit : Obligations.DirectionOfReturnsTheTopBit := by
  intro ss s
  rw [← zext32_code_directionOf]
  exact ⟨decode_encode (i := .directionOf ss) rfl, _, onPorts_both_onlyAnswers ..⟩

/-- Settles O11: the table index, widened, is below 127. -/
theorem tableIndexOfReturnsTheIndex : Obligations.TableIndexOfReturnsTheIndex := by
  intro ss s
  obtain ⟨hrun, hanswer⟩ := onPorts_both_onlyAnswers s .ok (BitVec.ofNat 32 (tableIndexOf ss).val)
  refine ⟨decode_encode (i := .tableIndexOf ss) rfl, _, _, (exec_tableIndexOf ss s).trans hrun, hanswer, ?_, ?_⟩
  · rw [toNat_ofNat_tableIndexOf, val_tableIndexOf]
  · rw [toNat_ofNat_tableIndexOf]
    exact Nat.le_of_lt_succ (tableIndexOf ss).isLt

/-- Settles O12: each lookup fits its field, so dividing by the field's place gives it back. -/
theorem decodeStepReturnsTheWholeLookup : Obligations.DecodeStepReturnsTheWholeLookup := by
  intro ss s
  obtain ⟨hrun, hanswer⟩ := onPorts_both_onlyAnswers s .ok (decodeStepData ss)
  refine ⟨decode_encode (i := .decodeStep ss) rfl, _, _, (exec_decodeStep ss s).trans hrun, hanswer, ?_⟩
  have hindex := (tableIndexOf ss).isLt
  have hstep := (stepIndexOf ss).isLt
  have hclass := (classOf ss).isLt
  rw [← val_tableIndexOf, ← toNat_classOf, ← toNat_stepIndexOf, ← toNat_code_directionOf, toNat_decodeStepData]
  omega

end Sys2Proof.Machine

/-! PROOFS. The statements on the sampler (spec/41_sampler.md): what `MEASURE` does on known answers, on a fault, on a
broken contract and with an invalid direction code (R140 to R149), and the bounds of the trimmed mean (R150). -/

namespace Sys2Proof

/-! ### A quotient of integers lies between the integers that bound it (R150) -/

/-- Rounding to nearest does not pass a finite value from above: that value would be nearer. -/
theorem F32.RoundsTo.le_value {r y : F32} {n : Int} {d : Nat} (h : r.RoundsTo n d) (hd : 0 < d)
    (hr : r.isFinite = true) (hy : y.isFinite = true) (hn : y.value * d ≤ n) : y.value ≤ r.value := by
  obtain ⟨-, hnear, -⟩ := h
  by_contra hlt
  have hmul : r.value * d < y.value * d := mul_lt_mul_of_pos_right (by omega) (by omega)
  have := (hnear hr y hy).1
  omega

/-- Rounding to nearest does not pass a finite value from below. -/
theorem F32.RoundsTo.value_le {r y : F32} {n : Int} {d : Nat} (h : r.RoundsTo n d) (hd : 0 < d)
    (hr : r.isFinite = true) (hy : y.isFinite = true) (hn : n ≤ y.value * d) : r.value ≤ y.value := by
  obtain ⟨-, hnear, -⟩ := h
  by_contra hlt
  have hmul : y.value * d < r.value * d := mul_lt_mul_of_pos_right (by omega) (by omega)
  have := (hnear hr y hy).1
  omega

/-- The quotient of two integers that convert exactly is finite and is the exact quotient, rounded once. -/
theorem fdiv_i2f_roundsTo {a b : Nat} (ha : a < 2 ^ 24) (hb : b < 2 ^ 24) (h0 : 0 < b) :
    (fdiv (i2f a) (i2f b)).isFinite = true ∧
      (fdiv (i2f a) (i2f b)).RoundsTo (a * 2 ^ 149 * 2 ^ 149) (b * 2 ^ 149) := by
  obtain ⟨hfa, hva⟩ := i2f_exact ha
  obtain ⟨hfb, hvb⟩ := i2f_exact hb
  have hpos : 0 < (i2f b).value := by omega
  have hround := fdiv_roundsTo hfa hfb hpos.ne'
  have hden : (i2f b).value.natAbs = b * 2 ^ 149 := by omega
  rw [Int.sign_eq_one_of_pos hpos, hva, mul_one, hden] at hround
  exact ⟨hround.1.2 (by omega), hround⟩

/-- An integer that converts exactly, brought to the denominator of `fdiv_i2f_roundsTo`. -/
theorem value_i2f_mul {v : Nat} (hv : v < 2 ^ 24) (b : Nat) :
    (i2f v).value * ((b * 2 ^ 149 : Nat) : Int) = ((v * b : Nat) : Int) * 2 ^ 149 * 2 ^ 149 := by
  obtain ⟨-, hvalue⟩ := i2f_exact hv
  rw [hvalue]
  push_cast
  ring

theorem fle_iff_value_le {a b : F32} (ha : a.isFinite = true) (hb : b.isFinite = true) :
    fle a b = true ↔ a.value ≤ b.value := by
  obtain ⟨-, hfle, -⟩ := comparisons_of_isFinite ha hb
  exact hfle

/-- An integer that is at most a quotient is at most the rounded quotient. -/
theorem fle_i2f_fdiv {v a b : Nat} (hv : v < 2 ^ 24) (ha : a < 2 ^ 24) (hb : b < 2 ^ 24) (h0 : 0 < b)
    (h : v * b ≤ a) : fle (i2f v) (fdiv (i2f a) (i2f b)) = true := by
  obtain ⟨hfin, hround⟩ := fdiv_i2f_roundsTo ha hb h0
  obtain ⟨hfv, -⟩ := i2f_exact hv
  refine (fle_iff_value_le hfv hfin).2 (hround.le_value (by omega) hfin hfv ?_)
  rw [value_i2f_mul hv]
  omega

/-- An integer that is at least a quotient is at least the rounded quotient. -/
theorem fle_fdiv_i2f {v a b : Nat} (hv : v < 2 ^ 24) (ha : a < 2 ^ 24) (hb : b < 2 ^ 24) (h0 : 0 < b)
    (h : a ≤ v * b) : fle (fdiv (i2f a) (i2f b)) (i2f v) = true := by
  obtain ⟨hfin, hround⟩ := fdiv_i2f_roundsTo ha hb h0
  obtain ⟨hfv, -⟩ := i2f_exact hv
  refine (fle_iff_value_le hfin hfv).2 (hround.value_le (by omega) hfin hfv ?_)
  rw [value_i2f_mul hv]
  omega

/-- Settles O30: the sum lies between `lo` and `hi` times the number of samples, and rounding keeps the order. -/
theorem trimmedMeanLiesWithinTheKeptSamples : Obligations.TrimmedMeanLiesWithinTheKeptSamples := by
  intro kept lo hi hne hlen hsum hlo hhi hbounds
  have hpos : 0 < kept.length := List.length_pos_of_ne_nil hne
  have hhi_lt : hi < 2 ^ 24 := (List.le_sum_of_mem hhi).trans_lt hsum
  have hlo_lt : lo < 2 ^ 24 := (List.le_sum_of_mem hlo).trans_lt hsum
  have hlow : lo * kept.length ≤ kept.sum := by
    simpa [Nat.mul_comm] using List.card_nsmul_le_sum kept lo fun v hv => (hbounds v hv).1
  have hhigh : kept.sum ≤ hi * kept.length := by
    simpa [Nat.mul_comm] using List.sum_le_card_nsmul kept hi fun v hv => (hbounds v hv).2
  exact ⟨fle_i2f_fdiv hlo_lt hsum (by omega) hpos hlow, fle_fdiv_i2f hhi_lt hsum (by omega) hpos hhigh⟩

end Sys2Proof

namespace Sys2Proof.Machine

/-! ### The direction code (R116, R141) -/

/-- A valid code names a direction, and with it the sense pin (R73). -/
theorem exists_directionOfCode {kk : U8} (h : kk.toNat ≤ 1) (p : Params) :
    ∃ d, directionOfCode kk = some d ∧ p.sensePin d = if kk = 0 then p.senseReverse else p.senseForward := by
  obtain rfl | rfl : kk = 0 ∨ kk = 1 := by bv_omega
  · exact ⟨.reverse, rfl, rfl⟩
  · exact ⟨.forward, rfl, rfl⟩

theorem directionOfCode_eq_none {kk : U8} (h : 2 ≤ kk.toNat) : directionOfCode kk = none := by
  have h0 : kk ≠ 0 := by bv_omega
  have h1 : kk ≠ 1 := by bv_omega
  rw [directionOfCode, if_neg h0, if_neg h1]

/-- Each direction is named by its code (R116). -/
theorem directionOfCode_ite (d : Direction) : directionOfCode (if d = .forward then 1 else 0) = some d := by
  cases d <;> rfl

theorem decodeDirection_of_some {kk : U8} {d : Direction} (h : directionOfCode kk = some d) (s : State) :
    decodeDirection kk s = (d, s) := by
  simp [decodeDirection, h]

theorem decodeDirection_of_none {kk : U8} (h : directionOfCode kk = none) (s : State) :
    decodeDirection kk s = (s.params.defaultDirection, s.raise .invalidDirection) := by
  simp [decodeDirection, h]

/-! ### `MEASURE` with a valid code answers what `measure` gives (R140) -/

theorem exec_measure_of_portC {s : State} (hp : s.port = .c) (kk : U8) :
    exec (.measure kk) s = .next (s.measureBody kk) := by
  rw [exec_measure, onPorts_allowed ((PortSet.onlyC_allows _).2 hp)]

theorem exec_measure_ok {kk : U8} {s t : State} {d : Direction} {m : F32} (hp : s.port = .c)
    (hd : directionOfCode kk = some d) (hm : measure d s = (some m, t)) :
    exec (.measure kk) s = .next (t.respond .ok m.bits) := by
  rw [exec_measure_of_portC hp, State.measureBody, decodeDirection_of_some hd]
  simp only [hm]

theorem exec_measure_fault {kk : U8} {s t : State} {d : Direction} (hp : s.port = .c)
    (hd : directionOfCode kk = some d) (hm : measure d s = (none, t)) :
    exec (.measure kk) s = .next (t.respond .fault 0) := by
  rw [exec_measure_of_portC hp, State.measureBody, decodeDirection_of_some hd]
  simp only [hm]

/-- Settles O29: an invalid code decodes to what the default direction's code does after `INVALID_DIRECTION`. -/
theorem measureWithAnInvalidDirection : Obligations.MeasureWithAnInvalidDirection := by
  refine ⟨fun kk s hp hk => ?_, rfl⟩
  have hraise : ({ s with errorState := s.errorState ||| 0x08 } : State) = s.raise .invalidDirection := rfl
  rw [hraise, exec_measure_of_portC hp, exec_measure_of_portC (s := s.raise .invalidDirection) hp, State.measureBody,
    State.measureBody, decodeDirection_of_none (directionOfCode_eq_none hk),
    decodeDirection_of_some (directionOfCode_ite _)]

/-! ### A broken contract (R142) -/

theorem State.contract_iff (s : State) : s.contract = true ↔
    s.bemf.leftCutoff.toNat + s.bemf.rightCutoff.toNat < s.bemf.totalIterations.toNat ∧
      s.bemf.totalIterations.toNat ≤ s.params.maxSamplesPred.val + 1 :=
  samplerContract_iff ..

/-- Settles O27: `measure` only raises `CONFIG_ERROR`. -/
theorem measureFaultsOnABrokenContract : Obligations.MeasureFaultsOnABrokenContract := by
  intro kk s hp hk hbroken
  obtain ⟨d, hd, -⟩ := exists_directionOfCode hk s.params
  have hc : s.contract = false := by
    rw [Bool.eq_false_iff, Ne, s.contract_iff]
    omega
  refine ⟨_, exec_measure_fault hp hd (measure_broken d hc), State.returns_respond_of rfl rfl rfl, ?_, ?_⟩
  · exact State.respond_errorState ..
  · simp

/-! ### The state after sampling (R143 to R146) -/

/-- What `MEASURE` emits, on the sense pin of its direction. -/
theorem State.events_afterMeasure {s : State} {d : Direction} {pin : PinId} (hpin : s.params.sensePin d = pin) :
    (s.afterMeasure d).events = s.events ++ [.disableDrive, .waitUs s.bemf.delayUs] ++
      List.replicate s.bemf.totalIterations.toNat (.readAdc pin) ++ if s.driveEnabled then [.enableDrive] else [] := by
  rw [← hpin]
  simp [State.afterMeasure]

theorem State.adcAnswers_afterMeasure_known {s : State} (d : Direction) {answers rest : List AdcAnswer}
    (h : s.adcAnswers = answers ++ rest) (hn : answers.length = s.bemf.totalIterations.toNat) :
    (s.afterMeasure d).adcAnswers = rest := by
  rw [State.afterMeasure_known h hn]

theorem State.measureAnswers_append {s : State} (d : Direction) {answers rest : List AdcAnswer}
    (h : s.adcAnswers = answers ++ rest) (hn : answers.length = s.bemf.totalIterations.toNat) :
    s.measureAnswers d = answers.map fun a => { a with sample := a.sample % 2 ^ s.adcBits } := by
  rw [s.measureAnswers_known d (by rw [h, ← hn]; simp), h, ← hn, List.take_left]

/-- Settles O25: on known answers without a fault `measure` gives the mean of the kept samples. -/
theorem measureReturnsTheTrimmedMean : Obligations.MeasureReturnsTheTrimmedMean := by
  intro kk s answers rest low kept high hp hk hadc hlen hgood hperm hsorted hlow hhigh hkept hmax
  obtain ⟨d, hd, hpin⟩ := exists_directionOfCode hk s.params
  have hm := measure_known d hadc hlen hgood hperm hsorted hlow hhigh hkept hmax
  refine ⟨_, exec_measure_ok hp hd hm, State.returns_respond_of rfl rfl rfl, ?_, ?_, ?_⟩
  · rw [State.respond_events, State.events_afterMeasure hpin]
  · rw [State.respond_adcAnswers, State.adcAnswers_afterMeasure_known d hadc hlen]
  · rw [State.afterMeasure_known hadc hlen]
    simp

/-- Settles O28: a fault bit among the answers decides `measure` against a mean. -/
theorem measureFaultsOnASampleFault : Obligations.MeasureFaultsOnASampleFault := by
  intro kk s answers rest hp hk hcut hmax hadc hlen ⟨a, ha, hfault⟩
  obtain ⟨d, hd, hpin⟩ := exists_directionOfCode hk s.params
  have hany : (s.measureAnswers d).any (·.fault) = true := by
    rw [State.measureAnswers_append d hadc hlen, List.any_map]
    exact List.any_eq_true.2 ⟨a, ha, hfault⟩
  have hm := measure_sampled d (s.contract_iff.2 ⟨hcut, hmax⟩)
  rw [if_pos hany] at hm
  refine ⟨_, exec_measure_fault hp hd hm, State.returns_respond_of rfl rfl rfl, ?_, ?_, ?_, ?_⟩
  · exact State.respond_errorState ..
  · rw [State.respond_adcAnswers, State.raise_adcAnswers, State.adcAnswers_afterMeasure_known d hadc hlen]
  · rw [State.respond_events, State.raise_events, State.events_afterMeasure hpin]
  · rw [State.afterMeasure_known hadc hlen]
    simp

/-- Settles O26: where the contract holds, `measure` samples and then gives a mean or raises `MEASUREMENT_FAULT`. -/
theorem measureRestoresTheDrive : Obligations.MeasureRestoresTheDrive := by
  intro kk s hp hk hcut hmax
  obtain ⟨d, hd, hpin⟩ := exists_directionOfCode hk s.params
  have hc : s.contract = true := s.contract_iff.2 ⟨hcut, hmax⟩
  obtain ⟨hbroken, -⟩ | ⟨-, -, hm⟩ | ⟨-, -, hm⟩ := measure_cases d s
  · simp [hc] at hbroken
  · refine ⟨_, exec_measure_fault hp hd hm, ?_, .inr ⟨State.returns_respond_of rfl rfl rfl, ?_⟩, ?_⟩
    · rw [State.respond_events, State.raise_events, State.events_afterMeasure hpin]
    · exact State.respond_errorState ..
    · simp [State.afterMeasure]
  · refine ⟨_, exec_measure_ok hp hd hm, ?_, .inl ⟨_, State.returns_respond_of rfl rfl rfl, ?_⟩, ?_⟩
    · rw [State.respond_events, State.events_afterMeasure hpin]
    · exact State.respond_errorState ..
    · simp [State.afterMeasure]

end Sys2Proof.Machine

/-! PROOFS. The statements on the startup controller (spec/42_startup.md): the initial level (R162 to R164), the startup
tick (R165 to R167, R169) and the handoff (R168). -/

namespace Sys2Proof.Machine

/-! ### The average over the populated slots (R161 to R164) -/

/-- The average with its empty case written as the bit pattern of `+0.0` (R162). -/
theorem StartupState.average_eq_ite (u : StartupState) :
    u.average = if u.histCount.val = 0 then F32.ofBits 0 else
      fdiv (i2f ((u.history.toList.take u.histCount.val).map fun l => l.toNat).sum) (i2f u.histCount.val) := rfl

/-- A command of port C alone that only answers gives that answer there and `DENIED` on port D, and changes nothing. -/
theorem onPorts_onlyC_onlyAnswers (s : State) (st : Status) (d : State → U32) :
    (s.port = .c → ∃ t, onPorts .onlyC s (fun s => s.respond st (d s)) = .next t ∧ s.OnlyAnswers t ⟨st, d s⟩) ∧
      (s.port = .d → ∃ t, onPorts .onlyC s (fun s => s.respond st (d s)) = .next t ∧ s.OnlyAnswers t ⟨.denied, 0⟩) :=
  ⟨fun hp => ⟨_, onPorts_allowed ((PortSet.onlyC_allows _).2 hp) _, s.respond_onlyAnswers st (d s)⟩,
    fun hp => ⟨_, onPorts_denied (hp ▸ rfl) _, s.respond_onlyAnswers .denied 0⟩⟩

/-- Settles O31: the command only answers, on port C with the initial level. -/
theorem getInitialLevelAveragesThePopulatedSlots : Obligations.GetInitialLevelAveragesThePopulatedSlots := by
  refine ⟨decode_encode (i := .getInitialLevel) rfl, fun s => ?_⟩
  dsimp only
  rw [← s.startup.average_eq_ite, ← F32.twoThirds, ← StartupState.initialLevel, exec_getInitialLevel]
  exact onPorts_onlyC_onlyAnswers s .ok fun s => s.startup.initialLevel.bits

/-! ### The level of a startup tick as a number (R165, R166) -/

theorem State.nextLevel_eq_min (s : State) :
    s.nextLevel = min (if s.startup.seeded then s.startup.level.toNat + s.startup.rampStep.toNat
      else (truncU16 s.startup.initialLevel).toNat) s.ceiling := by
  unfold State.nextLevel
  split <;> rfl

/-- The ceiling is at most a 16-bit table entry, so no level that is cut to it wraps. -/
theorem State.toNat_ofNat_nextLevel (s : State) : (BitVec.ofNat 16 s.nextLevel).toNat = s.nextLevel := by
  have hceil : s.ceiling ≤ s.speedTable[s.setpoint].toNat := Nat.min_le_left ..
  have hnext : s.nextLevel ≤ s.ceiling := s.nextLevel_eq_min ▸ Nat.min_le_right ..
  exact Nat.mod_eq_of_lt ((hnext.trans hceil).trans_lt s.speedTable[s.setpoint].isLt)

/-! ### Applying the level (R166, R167) -/

@[simp] theorem State.applyNextLevel_startup (s : State) : s.applyNextLevel.startup =
    { s.startup with level := BitVec.ofNat 16 s.nextLevel, seeded := true } := rfl

@[simp] theorem State.applyNextLevel_pwmLevel (s : State) :
    s.applyNextLevel.pwmLevel = BitVec.ofNat 16 s.nextLevel := rfl

@[simp] theorem State.applyNextLevel_events (s : State) :
    s.applyNextLevel.events = s.events ++ [.setPwm (BitVec.ofNat 16 s.nextLevel)] := rfl

@[simp] theorem State.applyNextLevel_mode (s : State) : s.applyNextLevel.mode = s.mode := rfl

/-- In `Startup` mode the data of the response is the level (R123, R169). -/
theorem State.tickData_applyNextLevel {s : State} (hm : s.mode = .startup) :
    s.applyNextLevel.tickData = BitVec.ofNat 32 s.nextLevel := by
  rw [State.tickData_eq, State.applyNextLevel_pwmLevel, s.toNat_ofNat_nextLevel]
  simp [hm]

/-- After a handoff the data of the response is the mode bit above the level (R123, R169). -/
theorem State.tickData_handoff_applyNextLevel (s : State) :
    s.applyNextLevel.handoff.tickData = BitVec.ofNat 32 (2 ^ 16 + s.nextLevel) := by
  rw [State.tickData_eq, State.handoff_pwmLevel, State.applyNextLevel_pwmLevel, s.toNat_ofNat_nextLevel]
  simp

/-! ### Recording the level (R168) -/

@[simp] theorem StartupState.push_histCount (u : StartupState) (l : U16) :
    (u.push l).histCount.val = min (u.histCount.val + 1) 16 := rfl

@[simp] theorem StartupState.push_histIdx (u : StartupState) (l : U16) :
    (u.push l).histIdx.val = (u.histIdx.val + 1) % 16 := by
  simp [StartupState.push, Fin.val_add]

@[simp] theorem StartupState.push_level (u : StartupState) (l : U16) : (u.push l).level = u.level := rfl

@[simp] theorem StartupState.push_seeded (u : StartupState) (l : U16) : (u.push l).seeded = u.seeded := rfl

@[simp] theorem StartupState.push_kFf (u : StartupState) (l : U16) : (u.push l).kFf = u.kFf := rfl

@[simp] theorem StartupState.push_rampStep (u : StartupState) (l : U16) : (u.push l).rampStep = u.rampStep := rfl

/-- Only the slot at the ring index is written. -/
theorem StartupState.getElem_history_push (u : StartupState) (l : U16) (j : Fin 16) :
    (u.push l).history[j] = if j = u.histIdx then l else u.history[j] := by
  simp [StartupState.push, Vector.getElem_set, Fin.ext_iff, eq_comm]

/-- A ring that has just learned a level is not empty, so its average is a quotient. -/
theorem StartupState.average_push (u : StartupState) (l : U16) :
    (u.push l).average =
      fdiv (i2f (((u.push l).history.toList.take (min (u.histCount.val + 1) 16)).map fun h => h.toNat).sum)
        (i2f (min (u.histCount.val + 1) 16)) := by
  have hcount : min (u.histCount.val + 1) 16 ≠ 0 := by omega
  rw [average_eq_ite, push_histCount, if_neg hcount]

/-! ### The startup tick (R165 to R169) -/

theorem exec_ctrlTick_startup {s : State} (hp : s.port = .c) (hi : s.initialised = true) (h0 : s.setpoint ≠ 0)
    (hm : s.mode = .startup) : exec .ctrlTick s = .next s.startupTick := by
  rw [exec_ctrlTick, onPorts_allowed ((PortSet.onlyC_allows _).2 hp)]
  obtain ⟨h, -⟩ | ⟨-, h, -⟩ | ⟨-, -, -, h⟩ | ⟨-, -, h, -⟩ := s.ctrlTickBody_cases
  · simp [hi] at h
  · exact absurd h h0
  · rw [h]
  · simp [hm] at h

/-- Below the ceiling or at it, a startup tick applies its next level and is seeded. -/
theorem State.startupTick_applies (s : State) :
    s.startupTick.startup.level = BitVec.ofNat 16 s.nextLevel ∧
      s.startupTick.pwmLevel = BitVec.ofNat 16 s.nextLevel ∧ s.startupTick.startup.seeded = true ∧
      s.startupTick.events = s.events ++ [.setPwm (BitVec.ofNat 16 s.nextLevel)] := by
  obtain ⟨-, ht⟩ | ⟨-, ht⟩ := s.startupTick_cases <;> simp [ht]

/-- Settles O32: below the ceiling the tick only applies its level and answers with it. -/
theorem startupTickRampsUpToTheCeiling : Obligations.StartupTickRampsUpToTheCeiling := by
  intro s hp hi h0 hm ceiling level
  have hnext : s.nextLevel = level := s.nextLevel_eq_min
  obtain ⟨hlevel, hpwm, hseeded, hevents⟩ := s.startupTick_applies
  refine ⟨_, exec_ctrlTick_startup hp hi h0 hm, ?_, hpwm.trans hlevel.symm, hseeded, hpwm ▸ hevents, fun hlt => ?_⟩
  · rw [hlevel, s.toNat_ofNat_nextLevel, hnext]
  · obtain ⟨-, ht⟩ | ⟨hge, -⟩ := s.startupTick_cases
    · rw [ht, State.tickData_applyNextLevel hm, hnext]
      refine ⟨State.returns_respond_of rfl rfl rfl, ?_, ?_⟩
      · simp
      · simp [State.applyNextLevel]
    · exact absurd (hnext ▸ hlt) (Nat.not_lt.2 hge)

/-- Settles O33: at the ceiling the applied level, which is the ceiling, is handed off. -/
theorem handoffRecordsTheLevelAndEntersPid : Obligations.HandoffRecordsTheLevelAndEntersPid := by
  intro s hp hi h0 hm ceiling count hreach
  have hnext : s.nextLevel = ceiling := s.nextLevel_eq_min.trans (Nat.min_eq_right hreach)
  have hlevel : (BitVec.ofNat 16 s.nextLevel).toNat = ceiling := s.toNat_ofNat_nextLevel.trans hnext
  obtain ⟨hlt, -⟩ | ⟨-, ht⟩ := s.startupTick_cases
  · exact absurd hnext hlt.ne
  refine ⟨_, exec_ctrlTick_startup hp hi h0 hm, ?_⟩
  rw [ht, s.tickData_handoff_applyNextLevel, hnext]
  simp only [State.respond_pwmLevel, State.respond_events, State.respond_startup, State.respond_feedForward,
    State.respond_pid, State.respond_mode]
  refine ⟨hlevel, rfl, StartupState.getElem_history_push _ _, StartupState.push_histIdx _ _,
    StartupState.push_histCount _ _, StartupState.push_level _ _, StartupState.push_seeded _ _,
    StartupState.push_kFf _ _, StartupState.push_rampStep _ _, ?_, rfl, rfl, State.returns_respond_of rfl rfl rfl, ?_⟩
  · exact congrArg (fmul s.startup.kFf) (StartupState.average_push _ _)
  · simp [State.applyNextLevel]

end Sys2Proof.Machine

/-! PROOFS. The statements on the PID controller (spec/43_pid.md): the gain schedule (R182 to R185), the PID tick with
its hold (R186 to R195), and the bounds of the integral and of the level (R190, R193). -/

namespace Sys2Proof

/-! ### A result that is a binary32 value is delivered as it is (R19) -/

/-- The largest finite magnitude is half a unit below the bound at which rounding overflows. -/
theorem F32.natAbs_value_lt {x : F32} (h : x.isFinite = true) : x.value.natAbs < (2 ^ 25 - 1) * 2 ^ 252 := by
  have hmag : x.mag ≤ 0x7F7FFFFF := Nat.le_of_lt_succ ((F32.isFinite_iff x).1 h)
  rw [F32.natAbs_value, F32.units_eq]
  calc magUnits x.mag ≤ magUnits 0x7F7FFFFF := magUnits_strictMono.monotone hmag
    _ < (2 ^ 25 - 1) * 2 ^ 252 := by decide

theorem F32.RoundsTo.finite_and_value_eq {r y : F32} {n : Int} {d : Nat} (h : r.RoundsTo n d) (hd : 0 < d)
    (hy : y.isFinite = true) (hn : n = y.value * d) : r.isFinite = true ∧ r.value = y.value := by
  have hfin : r.isFinite = true := by
    rw [h.1, hn, Int.natAbs_mul, Int.natAbs_natCast]
    exact Nat.mul_lt_mul_of_pos_right (F32.natAbs_value_lt hy) hd
  exact ⟨hfin, le_antisymm (h.value_le hd hfin hy hn.le) (h.le_value hd hfin hy hn.ge)⟩

/-- A finite value plus a multiple of a zero difference is that value. -/
theorem feq_fadd_fmul_fsub {y m a b : F32} (hy : y.isFinite = true) (hm : m.isFinite = true) (ha : a.isFinite = true)
    (hb : b.isFinite = true) (hab : a.value = b.value) : feq (fadd y (fmul m (fsub a b))) y = true := by
  have hz : F32.zero.isFinite = true := rfl
  have hz0 : F32.zero.value = 0 := by decide
  obtain ⟨hsub, hsub0⟩ := (fsub_roundsTo ha hb).finite_and_value_eq Nat.one_pos hz (by simp [hab, hz0])
  obtain ⟨hmul, hmul0⟩ := (fmul_roundsTo hm hsub).finite_and_value_eq (Nat.two_pow_pos _) hz (by simp [hsub0, hz0])
  obtain ⟨hadd, hadd0⟩ := (fadd_roundsTo hy hmul).finite_and_value_eq Nat.one_pos hy (by simp [hmul0, hz0])
  obtain ⟨-, -, hfeq⟩ := comparisons_of_isFinite hadd hy
  exact hfeq.2 hadd0

/-! ### Equal values compare alike (R19) -/

theorem F32.natAbs_key (x : F32) : x.key.natAbs = x.mag := by
  unfold F32.key
  split <;> simp

theorem isFinite_of_feq {a b : F32} (h : feq a b = true) (hb : b.isFinite = true) : a.isFinite = true := by
  obtain ⟨-, -, hkey⟩ := (feq_iff a b).1 h
  rwa [F32.isFinite_iff, ← F32.natAbs_key, hkey, F32.natAbs_key, ← F32.isFinite_iff]

theorem fle_congr_left {a b : F32} (h : feq a b = true) (c : F32) : fle a c = fle b c := by
  obtain ⟨ha, hb, hkey⟩ := (feq_iff a b).1 h
  simp [fle, ha, hb, hkey]

theorem flt_congr_left {a b : F32} (h : feq a b = true) (c : F32) : flt a c = flt b c := by
  obtain ⟨ha, hb, hkey⟩ := (feq_iff a b).1 h
  simp [flt, ha, hb, hkey]

theorem flt_irrefl (a : F32) : flt a a = false := by simp [flt]

theorem flt_trans {a b c : F32} (h1 : flt a b = true) (h2 : flt b c = true) : flt a c = true := by
  obtain ⟨ha, -, hab⟩ := (flt_iff a b).1 h1
  obtain ⟨-, hc, hbc⟩ := (flt_iff b c).1 h2
  exact (flt_iff a c).2 ⟨ha, hc, hab.trans hbc⟩

theorem fle_eq_false_of_flt {a b : F32} (h : flt a b = true) : fle b a = false := by
  obtain ⟨-, -, hkey⟩ := (flt_iff a b).1 h
  simp [fle, hkey]

theorem flt_eq_false_of_flt {a b : F32} (h : flt a b = true) : flt b a = false := by
  obtain ⟨-, -, hkey⟩ := (flt_iff a b).1 h
  simp [flt, hkey.le]

end Sys2Proof

namespace Sys2Proof.Machine

/-! ### The four segments of the gain schedule (R182, R183) -/

section
variable {p : PidState} {sp : Nat}

theorem PidState.getKp_of_fle_zero (h0 : fle (fsub (i2f sp) p.x1Shift) F32.zero = true) : p.getKp sp = p.y0 := by
  simp [PidState.getKp, h0]

theorem PidState.getKp_of_flt_x1 (h0 : fle (fsub (i2f sp) p.x1Shift) F32.zero = false)
    (h1 : flt (fsub (i2f sp) p.x1Shift) p.x1 = true) :
    p.getKp sp = fadd p.y0 (fmul p.m1 (fsub (i2f sp) p.x1Shift)) := by
  simp [PidState.getKp, h0, h1]

theorem PidState.getKp_of_flt_x2 (h0 : fle (fsub (i2f sp) p.x1Shift) F32.zero = false)
    (h1 : flt (fsub (i2f sp) p.x1Shift) p.x1 = false) (h2 : flt (fsub (i2f sp) p.x1Shift) p.x2 = true) :
    p.getKp sp = fadd p.y1 (fmul p.m2 (fsub (fsub (i2f sp) p.x1Shift) p.x1)) := by
  simp [PidState.getKp, h0, h1, h2]

theorem PidState.getKp_of_not_flt_x2 (h0 : fle (fsub (i2f sp) p.x1Shift) F32.zero = false)
    (h1 : flt (fsub (i2f sp) p.x1Shift) p.x1 = false) (h2 : flt (fsub (i2f sp) p.x1Shift) p.x2 = false) :
    p.getKp sp = p.y2 := by
  simp [PidState.getKp, h0, h1, h2]

end

/-- Settles O34: the command only answers, on port C with the value of the segment. -/
theorem getKpFollowsTheSegments : Obligations.GetKpFollowsTheSegments := by
  intro vv s
  obtain ⟨hc, hd⟩ := onPorts_onlyC_onlyAnswers s .ok fun s => (s.pid.getKp vv.toNat).bits
  rw [exec_getKp]
  refine ⟨decode_encode (i := .getKp vv) rfl, hd, fun hp => ?_⟩
  obtain ⟨t, hrun, hanswer⟩ := hc hp
  exact ⟨t, _, hrun, hanswer, rfl, PidState.getKp_of_fle_zero, PidState.getKp_of_flt_x1, PidState.getKp_of_flt_x2,
    PidState.getKp_of_not_flt_x2⟩

/-- Settles O35: at `x1` the second segment begins, with a zero difference; at `x2` it has ended. -/
theorem getKpIsExactAtTheBreakpoints : Obligations.GetKpIsExactAtTheBreakpoints := by
  intro p sp hx1 hy1 hm2 hpos hlt
  refine ⟨fun heq => ?_, fun heq => ?_⟩
  · have h0 := (fle_congr_left heq F32.zero).trans (fle_eq_false_of_flt hpos)
    have h1 := (flt_congr_left heq p.x1).trans (flt_irrefl p.x1)
    have h2 := (flt_congr_left heq p.x2).trans hlt
    obtain ⟨-, -, hkey⟩ := (feq_iff _ _).1 heq
    rw [PidState.getKp_of_flt_x2 h0 h1 h2]
    exact feq_fadd_fmul_fsub hy1 hm2 (isFinite_of_feq heq hx1) hx1 ((F32.key_eq_key_iff _ _).1 hkey)
  · have h0 := (fle_congr_left heq F32.zero).trans (fle_eq_false_of_flt (flt_trans hpos hlt))
    have h1 := (flt_congr_left heq p.x1).trans (flt_eq_false_of_flt hlt)
    have h2 := (flt_congr_left heq p.x2).trans (flt_irrefl p.x2)
    exact PidState.getKp_of_not_flt_x2 h0 h1 h2

/-! ### What a PID tick answers (R186, R195) -/

theorem exec_ctrlTick_pid {s : State} (hp : s.port = .c) (hi : s.initialised = true) (h0 : s.setpoint ≠ 0)
    (hm : s.mode = .pid) : exec .ctrlTick s = .next s.pidTick := by
  rw [exec_ctrlTick, onPorts_allowed ((PortSet.onlyC_allows _).2 hp)]
  obtain ⟨h, -⟩ | ⟨-, h, -⟩ | ⟨-, -, h, -⟩ | ⟨-, -, -, h⟩ := s.ctrlTickBody_cases
  · simp [hi] at h
  · exact absurd h h0
  · simp [hm] at h
  · rw [h]

/-- In `Pid` mode the data of the response is the mode bit above the level (R123, R195). -/
theorem State.tickData_of_pid {s : State} (hm : s.mode = .pid) :
    s.tickData = BitVec.ofNat 32 (2 ^ 16 + s.pwmLevel.toNat) := by
  rw [State.tickData_eq, if_pos hm]

@[simp] theorem State.afterMeasure_mode (s : State) (d : Direction) : (s.afterMeasure d).mode = s.mode := rfl

@[simp] theorem State.afterMeasure_errorState (s : State) (d : Direction) :
    (s.afterMeasure d).errorState = s.errorState := rfl

@[simp] theorem State.afterMeasure_port (s : State) (d : Direction) : (s.afterMeasure d).port = s.port := rfl

@[simp] theorem State.afterMeasure_respC (s : State) (d : Direction) : (s.afterMeasure d).respC = s.respC := rfl

@[simp] theorem State.afterMeasure_respD (s : State) (d : Direction) : (s.afterMeasure d).respD = s.respD := rfl

/-- A tick that leaves `s'`, in `Pid` mode, and answers with its data returns the mode bit above the level. -/
theorem State.returns_tickData {s s' : State} {data : U32} (hdata : data = s'.tickData) (hm : s'.mode = .pid)
    (hp : s'.port = s.port) (hc : s'.respC = s.respC) (hd : s'.respD = s.respD) (st : Status) :
    s.Returns (s'.respond st data) ⟨st, BitVec.ofNat 32 (2 ^ 16 + (s'.respond st data).pwmLevel.toNat)⟩ := by
  rw [State.respond_pwmLevel, ← State.tickData_of_pid hm, ← hdata]
  exact State.returns_respond_of hp hc hd

/-- What a tick in `Pid` mode that commits returns. -/
theorem State.returns_commit {s : State} (hm : s.mode = .pid) (d : Direction) (m : F32) :
    s.Returns (((s.afterMeasure d).pidCommit m).respond .ok ((s.afterMeasure d).pidCommit m).tickData)
      ⟨.ok, BitVec.ofNat 32 (2 ^ 16 +
        (((s.afterMeasure d).pidCommit m).respond .ok ((s.afterMeasure d).pidCommit m).tickData).pwmLevel.toNat)⟩ :=
  State.returns_tickData rfl (by simp [hm]) (by simp) (by simp) (by simp) .ok

/-- The sense pin of the direction of a speed step (R73, R131). -/
theorem sensePin_directionOf (p : Params) (step : U8) :
    p.sensePin (directionOf step) = if 128 ≤ step.toNat then p.senseForward else p.senseReverse := by
  unfold directionOf
  split <;> rfl

/-- A fault bit among known answers is among those that `measure` gets. -/
theorem State.any_fault_measureAnswers {s : State} (d : Direction) {answers rest : List AdcAnswer}
    (h : s.adcAnswers = answers ++ rest) (hn : answers.length = s.bemf.totalIterations.toNat)
    (hf : ∃ a ∈ answers, a.fault = true) : (s.measureAnswers d).any (·.fault) = true := by
  rw [State.measureAnswers_append d h hn, List.any_map]
  exact List.any_eq_true.2 hf

/-- A tick with a mean holds where its output sum is NaN (R192), and else commits (R187 to R194). -/
theorem State.pidTick_of_measure {s : State} {m : F32}
    (hm : measure (directionOf s.target.r) s = (some m, s.afterMeasure (directionOf s.target.r))) :
    s.pidTick =
      if (s.pidSum m).isNaN then
        ((s.afterMeasure (directionOf s.target.r)).raise .measurementFault).respond .fault s.tickData
      else
        ((s.afterMeasure (directionOf s.target.r)).pidCommit m).respond .ok
          ((s.afterMeasure (directionOf s.target.r)).pidCommit m).tickData := by
  unfold State.pidTick
  rw [hm]
  rfl

/-! ### A PID tick on known answers (R187 to R195) -/

/-- Settles O36: the tick measures the mean and commits. -/
theorem pidTickUpdatesFromTheMeasurement : Obligations.PidTickUpdatesFromTheMeasurement := by
  intro s answers rest low kept high hp hi h0 hmode hadc hlen hgood hperm hsorted hlow hhigh hkept hmax m mc e kp i d u
    hsum
  have hm : measure (directionOf s.target.r) s = (some m, s.afterMeasure (directionOf s.target.r)) :=
    measure_known _ hadc hlen hgood hperm hsorted hlow hhigh hkept hmax
  have hu : u = s.pidSum m := rfl
  have hrun := exec_ctrlTick_pid hp hi h0 hmode
  rw [hu] at hsum
  rw [State.pidTick_of_measure hm, if_neg (Bool.eq_false_iff.1 hsum)] at hrun
  refine ⟨_, hrun, ?_, State.returns_commit hmode _ m, ?_, ?_, ?_, ?_, ?_⟩
  · rw [State.respond_pwmLevel, State.pidCommit_pwmLevel]
    rfl
  · rw [State.respond_meas, State.pidCommit_meas]
    rfl
  · rw [State.respond_pid, State.pidCommit_pid]
    rfl
  · rw [State.respond_events, State.respond_pwmLevel, State.pidCommit_events, State.pidCommit_pwmLevel,
      State.events_afterMeasure (sensePin_directionOf ..)]
  · rw [State.respond_adcAnswers, State.pidCommit_adcAnswers, State.adcAnswers_afterMeasure_known _ hadc hlen]
  · rw [State.afterMeasure_known hadc hlen]
    simp

/-- Settles O38: the tick measures the mean and holds. -/
theorem pidTickHoldsOnANaNSum : Obligations.PidTickHoldsOnANaNSum := by
  intro s answers rest low kept high hp hi h0 hmode hadc hlen hgood hperm hsorted hlow hhigh hkept hmax m e i d u hsum
  have hm : measure (directionOf s.target.r) s = (some m, s.afterMeasure (directionOf s.target.r)) :=
    measure_known _ hadc hlen hgood hperm hsorted hlow hhigh hkept hmax
  have hu : u = s.pidSum m := rfl
  have hrun := exec_ctrlTick_pid hp hi h0 hmode
  rw [hu] at hsum
  rw [State.pidTick_of_measure hm, if_pos hsum, State.tickData_of_pid hmode] at hrun
  refine ⟨_, hrun, State.returns_respond_of rfl rfl rfl, State.respond_errorState .., ?_, ?_, ?_⟩
  · rw [State.respond_events, State.raise_events, State.events_afterMeasure (sensePin_directionOf ..)]
  · rw [State.respond_adcAnswers, State.raise_adcAnswers, State.adcAnswers_afterMeasure_known _ hadc hlen]
  · rw [State.afterMeasure_known hadc hlen]
    simp

/-! ### The hold (R186) -/

/-- A measurement appends events, none of which sets a level. -/
theorem State.events_afterMeasure_no_setPwm (s : State) (d : Direction) :
    ∃ es, (s.afterMeasure d).events = s.events ++ es ∧ ∀ level, .setPwm level ∉ es := by
  refine ⟨_, rfl, fun level => ?_⟩
  cases s.driveEnabled <;> simp [List.mem_replicate]

theorem State.contract_eq_false_iff (s : State) : s.contract = false ↔
    s.bemf.totalIterations.toNat ≤ s.bemf.leftCutoff.toNat + s.bemf.rightCutoff.toNat ∨
      s.params.maxSamplesPred.val + 1 < s.bemf.totalIterations.toNat := by
  rw [← Bool.not_eq_true, s.contract_iff]
  omega

/-- Settles O37: a broken contract, a measurement that faults or is poisoned, and the commit. -/
theorem pidTickHoldsOnAFault : Obligations.PidTickHoldsOnAFault := by
  intro s hp hi h0 hmode
  have hrun := exec_ctrlTick_pid hp hi h0 hmode
  obtain ⟨hc, ht⟩ | ⟨hc, ht⟩ | ⟨m, hc, -, hm, ht⟩ := s.pidTick_cases <;> rw [ht] at hrun
  · have hbroken := s.contract_eq_false_iff.1 hc
    have hreturns := State.returns_tickData (s' := s.raise .configError) rfl hmode rfl rfl rfl .fault
    refine ⟨_, .fault, hrun, hreturns, ?_, .inr ⟨rfl, .inl (State.respond_errorState ..), ⟨[], ?_, ?_⟩, ?_⟩,
      fun _ => ⟨rfl, State.respond_errorState .., State.respond_events ..⟩, fun answers rest _ _ hcut hmax _ => ?_⟩
    · simpa using hmode
    · simp
    · simp
    · simp
    · omega
  · obtain ⟨hcut, hmax⟩ := s.contract_iff.1 hc
    have hreturns := State.returns_tickData (s' := (s.afterMeasure (directionOf s.target.r)).raise .measurementFault)
      rfl hmode rfl rfl rfl .fault
    refine ⟨_, .fault, hrun, hreturns, ?_, .inr ⟨rfl, .inr (State.respond_errorState ..), ?_, ?_⟩,
      fun hbroken => ?_, fun answers rest _ _ _ _ _ => ⟨rfl, State.respond_errorState ..⟩⟩
    · simpa using hmode
    · simpa using s.events_afterMeasure_no_setPwm _
    · simp [State.afterMeasure]
    · omega
  · obtain ⟨hcut, hmax⟩ := s.contract_iff.1 hc
    refine ⟨_, .ok, hrun, State.returns_commit hmode _ m, ?_, .inl ⟨rfl, ?_⟩, fun hbroken => ?_,
      fun answers rest hadc hlen _ _ hfault => ?_⟩
    · simpa using hmode
    · simp
    · omega
    · rw [measure_sampled _ hc, if_pos (State.any_fault_measureAnswers _ hadc hlen hfault)] at hm
      simp at hm

/-! ### The bounds (R190, R193) -/

/-- A response is what was answered last. -/
theorem State.Returns.eq_of_respond {s s' : State} {st : Status} {d : U32} {r : Response}
    (h : s.Returns (s'.respond st d) r) (hp : s'.port = s.port) : r = ⟨st, d⟩ := by
  obtain ⟨hresp, -⟩ := h
  rw [← hp, State.response_respond] at hresp
  exact (Option.some.inj hresp).symm

/-- A PID tick that answers `OK` committed a measurement whose output sum is not NaN. -/
theorem State.pidTick_eq_of_returns_ok {s : State} {d : U32} (h : s.Returns s.pidTick ⟨.ok, d⟩) :
    ∃ m, (s.pidSum m).isNaN = false ∧ s.pidTick = ((s.afterMeasure (directionOf s.target.r)).pidCommit m).respond .ok
      ((s.afterMeasure (directionOf s.target.r)).pidCommit m).tickData := by
  obtain ⟨-, ht⟩ | ⟨-, ht⟩ | ⟨m, -, hsum, -, ht⟩ := s.pidTick_cases
  · rw [ht] at h
    simpa using h.eq_of_respond rfl
  · rw [ht] at h
    simpa using h.eq_of_respond rfl
  · exact ⟨m, hsum, ht⟩

/-- Settles O39: what is committed is clamped. -/
theorem pidTickKeepsIntegralAndOutputInBounds : Obligations.PidTickKeepsIntegralAndOutputInBounds := by
  intro s t d hp hi h0 hmode hrun hret
  obtain rfl := Host.Outcome.next.inj ((exec_ctrlTick_pid hp hi h0 hmode).symm.trans hrun)
  obtain ⟨m, hsum, ht⟩ := State.pidTick_eq_of_returns_ok hret
  rw [ht, State.respond_pid, State.respond_pwmLevel, State.pidCommit_pid, State.pidCommit_pwmLevel,
    State.pidSum_afterMeasure]
  refine ⟨fun hlim => ?_, fun hmax0 hmax16 => ?_⟩
  · obtain ⟨-, -, hint, -⟩ := State.pidSum_parts hsum
    exact clamp_mem (clamp_not_nan hint) hlim
  · obtain ⟨hlow, hhigh⟩ := clamp_mem hsum hmax0
    exact truncU16_mono hlow hhigh hmax16

end Sys2Proof.Machine

/-! PROOFS. The statements on the state machine (spec/44_state_machine.md): `INIT` (R200 to R205), `CTRL_TICK` before
`INIT` and at setpoint 0 (R210, R211), the mode graph (R213) and `RAMP_TICK` (R220 to R223). -/

namespace Sys2Proof

/-! ### The checks on the record (R202) -/

/-- The conjunction of R202, its two lists of finite values taken together. -/
theorem CvConfig.valid_iff (c : CvConfig) (maxSamples : Nat) : c.valid maxSamples = true ↔
    (∀ x ∈ c.floats ++ c.derived, x.isFinite = true) ∧
      flt F32.zero c.x1 = true ∧ flt c.x1 c.x2 = true ∧ fle c.intLimMin c.intLimMax = true ∧
      fle F32.zero c.maxOutput = true ∧ fle c.maxOutput F32.max16 = true ∧
      flt F32.zero c.t = true ∧ fle F32.zero c.tau = true ∧
      c.leftCutoff.toNat + c.rightCutoff.toNat < c.totalIterations.toNat ∧ c.totalIterations.toNat ≤ maxSamples := by
  simp only [CvConfig.valid, Bool.and_eq_true, List.all_eq_true, Machine.samplerContract_iff, List.forall_mem_append]
  constructor
  · rintro ⟨⟨⟨⟨⟨⟨hfloats, hx1, hx2⟩, hlim⟩, hout⟩, hper⟩, hcut⟩, hderived⟩
    exact ⟨⟨hfloats, hderived⟩, hx1, hx2, hlim, hout.1, hout.2, hper.1, hper.2, hcut⟩
  · rintro ⟨⟨hfloats, hderived⟩, hx1, hx2, hlim, hout0, hout1, ht, htau, hcut⟩
    exact ⟨⟨⟨⟨⟨⟨hfloats, hx1, hx2⟩, hlim⟩, hout0, hout1⟩, ht, htau⟩, hcut⟩, hderived⟩

/-- A record is refused where one conjunct of R202 fails. -/
theorem CvConfig.valid_eq_false_iff (c : CvConfig) (maxSamples : Nat) : c.valid maxSamples = false ↔
    (∃ x ∈ c.floats ++ c.derived, x.isFinite = false) ∨
      flt F32.zero c.x1 = false ∨ flt c.x1 c.x2 = false ∨ fle c.intLimMin c.intLimMax = false ∨
      fle F32.zero c.maxOutput = false ∨ fle c.maxOutput F32.max16 = false ∨
      flt F32.zero c.t = false ∨ fle F32.zero c.tau = false ∨
      c.totalIterations.toNat ≤ c.leftCutoff.toNat + c.rightCutoff.toNat ∨ maxSamples < c.totalIterations.toNat := by
  rw [← Bool.not_eq_true, c.valid_iff]
  simp only [not_and_or, not_forall, exists_prop, Bool.not_eq_true, Nat.not_lt, Nat.not_le]

end Sys2Proof

namespace Sys2Proof.Machine

/-! ### `INIT` (R200, R205) -/

/-- On port C the body of a command of port C alone runs (R103). -/
theorem onPorts_onlyC_of_portC {s : State} (hp : s.port = .c) (body : State → State) :
    onPorts .onlyC s body = .next (body s) :=
  onPorts_allowed ((PortSet.onlyC_allows _).2 hp) body

theorem exec_init_of_portC {s : State} (hp : s.port = .c) : exec .init s = .next s.initBody :=
  (exec_init s).trans (onPorts_onlyC_of_portC hp _)

theorem State.initBody_of_initialised {s : State} (hi : s.initialised = true) : s.initBody = s.respond .denied 0 := by
  simp [State.initBody, hi]

theorem State.initBody_of_not_ready {s : State} (hi : s.initialised = false) (hr : s.setup.r = false) :
    s.initBody = s.respond .notReady 0 := by
  simp [State.initBody, hi, hr]

theorem State.initBody_of_invalid {s : State} (hi : s.initialised = false) (hr : s.setup.r = true)
    (hv : s.cv.valid s.maxSamples = false) : s.initBody = (s.raise .configError).respond .fault 0 := by
  simp [State.initBody, hi, hr, hv]

theorem State.initBody_of_valid {s : State} (hi : s.initialised = false) (hr : s.setup.r = true)
    (hv : s.cv.valid s.maxSamples = true) : s.initBody = (s.initialise s.cv).respond .ok 0 := by
  simp [State.initBody, hi, hr, hv]

/-- Settles O40: the hypotheses are the conjuncts of R202, and a valid record is loaded. -/
theorem initLoadsAValidConfig : Obligations.InitLoadsAValidConfig := by
  intro s hp hi hr c m1 m2 two ci0 den cd0 cd1 hfinite hx1 hx2 hlim hout0 hout1 ht htau hcut hmax
  have hv : s.cv.valid s.maxSamples = true :=
    (s.cv.valid_iff _).2 ⟨hfinite, hx1, hx2, hlim, hout0, hout1, ht, htau, hcut, hmax⟩
  have hrun := exec_init_of_portC hp
  rw [State.initBody_of_valid hi hr hv] at hrun
  refine ⟨_, hrun, State.returns_respond_of rfl rfl rfl, ?_⟩
  simp only [State.respond_initialised, State.respond_driveEnabled, State.respond_pwmLevel, State.respond_events,
    State.respond_speedTable, State.respond_rampDelay, State.respond_bemf, State.respond_startup, State.respond_meas,
    State.respond_pid]
  refine ⟨rfl, rfl, rfl, ?_, rfl, rfl, rfl, rfl, rfl, rfl, ?_⟩
  · simp
  · simp

/-- Settles O41: each branch of `INIT` but the load, the last one where a conjunct of R202 fails. -/
theorem initRefusesAndFaults : Obligations.InitRefusesAndFaults := by
  intro s hp
  rw [exec_init_of_portC hp]
  refine ⟨fun hi => ?_, fun hi hr => ?_, fun hi hr hfails => ?_⟩
  · rw [State.initBody_of_initialised hi]
    exact ⟨_, rfl, s.respond_onlyAnswers .denied 0⟩
  · rw [State.initBody_of_not_ready hi hr]
    exact ⟨_, rfl, s.respond_onlyAnswers .notReady 0⟩
  · have hv : s.cv.valid s.maxSamples = false := (s.cv.valid_eq_false_iff _).2 hfails
    rw [State.initBody_of_invalid hi hr hv]
    refine ⟨_, rfl, State.returns_respond_of rfl rfl rfl, State.respond_errorState .., ?_⟩
    simp

/-! ### `CTRL_TICK` before `INIT` and at setpoint 0 (R210, R211) -/

theorem exec_ctrlTick_of_portC {s : State} (hp : s.port = .c) : exec .ctrlTick s = .next s.ctrlTickBody :=
  (exec_ctrlTick s).trans (onPorts_onlyC_of_portC hp _)

theorem State.ctrlTickBody_of_not_initialised {s : State} (hi : s.initialised = false) :
    s.ctrlTickBody = s.respond .notReady 0 := by
  simp [State.ctrlTickBody, hi]

theorem State.ctrlTickBody_of_setpoint_zero {s : State} (hi : s.initialised = true) (h0 : s.setpoint = 0) :
    s.ctrlTickBody = s.stopBody.respond .ok 0 := by
  simp [State.ctrlTickBody, hi, h0]

/-- Settles O44: the body only answers. -/
theorem ctrlTickBeforeInitIsNotReady : Obligations.CtrlTickBeforeInitIsNotReady := by
  refine ⟨decode_encode (i := .ctrlTick) rfl, fun s hp hi => ?_⟩
  rw [exec_ctrlTick_of_portC hp, State.ctrlTickBody_of_not_initialised hi]
  exact ⟨_, rfl, s.respond_onlyAnswers .notReady 0⟩

/-- Settles O43: the tick is the stop action, in either mode. -/
theorem stopActionAtSetpointZero : Obligations.StopActionAtSetpointZero := by
  intro s hp hi h0
  rw [exec_ctrlTick_of_portC hp, State.ctrlTickBody_of_setpoint_zero hi h0]
  refine ⟨_, rfl, State.returns_respond_of rfl rfl rfl, State.respond_mode .., State.respond_pwmLevel ..,
    State.respond_startup .., State.respond_events .., ?_⟩
  simp

/-! ### The mode graph (R213) -/

theorem Mode.eq_pid_of_startup_ne {m : Mode} (h : .startup ≠ m) : m = .pid := by
  cases m
  · exact absurd rfl h
  · rfl

@[simp] theorem State.initBody_mode (s : State) : s.initBody.mode = s.mode := by
  obtain ⟨-, ht⟩ | ⟨-, -, ht⟩ | ⟨-, -, -, ht⟩ | ⟨-, -, -, ht⟩ := s.initBody_cases <;> simp [ht]

@[simp] theorem State.rampTickBody_mode (s : State) : s.rampTickBody.mode = s.mode := by
  obtain ⟨-, ht⟩ | ⟨-, sp, d, ht⟩ := s.rampTickBody_cases <;> simp [ht]

@[simp] theorem State.pidTick_mode (s : State) : s.pidTick.mode = s.mode := by
  obtain ⟨-, ht⟩ | ⟨-, ht⟩ | ⟨m, -, -, -, ht⟩ := s.pidTick_cases <;> simp [ht]

@[simp] theorem decodeDirection_mode (kk : U8) (s : State) : (decodeDirection kk s).2.mode = s.mode := by
  obtain h | h := decodeDirection_state kk s <;> simp [h]

@[simp] theorem measure_mode (d : Direction) (s : State) : (measure d s).2.mode = s.mode := by
  obtain ⟨-, hm⟩ | ⟨-, -, hm⟩ | ⟨-, -, hm⟩ := measure_cases d s <;> simp [hm]

@[simp] theorem State.measureBody_mode (s : State) (kk : U8) : (s.measureBody kk).mode = s.mode := by
  obtain ⟨st, d, ht⟩ := s.measureBody_eq kk
  simp [ht]

/-- A startup tick leaves the mode, or enters `Pid` with the level at the ceiling (R168). -/
theorem State.startupTick_mode (s : State) : s.startupTick.mode = s.mode ∨
    (s.startupTick.mode = .pid ∧ s.startupTick.startup.level.toNat = s.ceiling) := by
  obtain ⟨-, ht⟩ | ⟨hreach, ht⟩ := s.startupTick_cases
  · exact .inl (by simp [ht])
  · have hnext : s.nextLevel = s.ceiling :=
      Nat.le_antisymm (s.nextLevel_eq_min ▸ Nat.min_le_right ..) hreach
    refine .inr ⟨by simp [ht], ?_⟩
    rw [s.startupTick_applies.1, s.toNat_ofNat_nextLevel, hnext]

/-- The edges of the mode graph that `CTRL_TICK` takes (R213). -/
theorem State.ctrlTickBody_edges {s : State} (h : s.ctrlTickBody.mode ≠ s.mode) :
    (s.mode = .pid ∧ s.ctrlTickBody.mode = .startup ∧ s.initialised = true ∧ s.setpoint = 0) ∨
      (s.mode = .startup ∧ s.ctrlTickBody.mode = .pid ∧ s.initialised = true ∧ s.setpoint ≠ 0 ∧
        s.ctrlTickBody.startup.level.toNat = s.ceiling) := by
  obtain ⟨-, ht⟩ | ⟨hi, h0, ht⟩ | ⟨hi, h0, hm, ht⟩ | ⟨-, -, -, ht⟩ := s.ctrlTickBody_cases <;> rw [ht] at h ⊢
  · exact absurd (State.respond_mode ..) h
  · have hstop : (s.stopBody.respond .ok 0).mode = .startup := State.respond_mode ..
    exact .inl ⟨Mode.eq_pid_of_startup_ne (hstop ▸ h), hstop, hi, h0⟩
  · obtain hsame | ⟨hpid, hlevel⟩ := s.startupTick_mode
    · exact absurd hsame h
    · exact .inr ⟨hm, hpid, hi, h0, hlevel⟩
  · exact absurd s.pidTick_mode h

/-- No command but `CTRL_TICK` on port C changes the mode (R213). -/
theorem exec_mode {i : Instr} {s t : State} (hrun : exec i s = .next t) :
    t.mode = s.mode ∨ (i = .ctrlTick ∧ s.port = .c ∧ t = s.ctrlTickBody) := by
  cases exec_does hrun with
  | ctrlTick hp => exact .inr ⟨rfl, hp, rfl⟩
  | answer | init | rampTick | measure | setError | clearError | clearAllErrors | wrTarget | wrSetupDone | wrFseDone =>
    exact .inl (by simp)

/-- A step that changes the mode is reset, out of `Pid`, or a `CTRL_TICK` on port C (R213). -/
theorem step_mode {s t : State} (hstep : step s = .next t) (hmode : t.mode ≠ s.mode) :
    (s.inputs.head? = some .reset ∧ s.mode = .pid ∧ t.mode = .startup) ∨
      ∃ rest, s.inputs = .command .c 0x1100 :: rest ∧
        t = State.ctrlTickBody { s with inputs := rest, port := .c } := by
  obtain ⟨-, rfl⟩ | ⟨p, w, rest, hin, ⟨i, hdec, hrun⟩ | ⟨-, rfl⟩⟩ | ⟨f, rest, -, rfl⟩ | ⟨rest, hin, rfl⟩ |
    ⟨c, rest, -, rfl⟩ | ⟨as, rest, -, rfl⟩ := step_cases hstep
  · exact absurd rfl hmode
  · obtain hsame | ⟨rfl, rfl, rfl⟩ := exec_mode hrun
    · exact absurd hsame hmode
    · have hword : encode .ctrlTick = w := (decodedWordIsTheEncodingOfItsCommand w _ hdec).1
      exact .inr ⟨rest, by rw [hin, ← hword]; rfl, rfl⟩
  · exact absurd (State.respond_mode ..) hmode
  · exact absurd (State.sync_mode ..) hmode
  · exact .inl ⟨by rw [hin]; rfl, Mode.eq_pid_of_startup_ne hmode, rfl⟩
  · exact absurd rfl hmode
  · exact absurd rfl hmode

/-- Settles O45: reset, or the two edges of `CTRL_TICK`. -/
theorem modeChangesOnlyAlongTheGraph : Obligations.ModeChangesOnlyAlongTheGraph := by
  intro s t hstep hmode
  obtain ⟨hhead, hpid, hstartup⟩ | ⟨rest, hin, rfl⟩ := step_mode hstep hmode
  · exact .inl ⟨hpid, hstartup, .inl hhead⟩
  · have hhead : s.inputs.head? = some (.command .c 0x1100) := by rw [hin]; rfl
    obtain ⟨hpid, hstartup, hi, h0⟩ | ⟨hstartup, hpid, hi, h0, hlevel⟩ := State.ctrlTickBody_edges hmode
    · exact .inl ⟨hpid, hstartup, .inr ⟨hhead, hi, h0⟩⟩
    · exact .inr ⟨hstartup, hpid, hhead, hi, h0, hlevel⟩

/-! ### `RAMP_TICK` (R220, R221) -/

theorem val_stepToward (sp tgt : Fin 127) : (stepToward sp tgt).val =
    if sp.val < tgt.val then sp.val + 1 else if tgt.val < sp.val then sp.val - 1 else sp.val := by
  simp only [stepToward, Fin.lt_def]
  split_ifs <;> rfl

theorem State.rampTickBody_of_not_initialised {s : State} (hi : s.initialised = false) :
    s.rampTickBody = s.respond .notReady 0 := by
  simp [State.rampTickBody, hi]

theorem State.rampTickBody_of_initialised {s : State} (hi : s.initialised = true) :
    s.rampTickBody = State.respond { s with setpoint := stepToward s.setpoint (tableIndexOf s.target.r) } .ok
      (BitVec.ofNat 32 (stepToward s.setpoint (tableIndexOf s.target.r)).val) := by
  simp [State.rampTickBody, hi]

theorem State.rampTickBody_setpoint {s : State} (hi : s.initialised = true) :
    s.rampTickBody.setpoint = stepToward s.setpoint (tableIndexOf s.target.r) := by
  rw [State.rampTickBody_of_initialised hi, State.respond_setpoint]

theorem exec_rampTick_of_portC {s : State} (hp : s.port = .c) : exec .rampTick s = .next s.rampTickBody :=
  (exec_rampTick s).trans (onPorts_onlyC_of_portC hp _)

theorem exec_rampTick_of_portD {s : State} (hp : s.port = .d) : exec .rampTick s = .next (s.respond .denied 0) :=
  (exec_rampTick s).trans (onPorts_denied (hp ▸ rfl) _)

/-- Settles O46: one step toward the target's index, in each of the three orders of the two. -/
theorem rampTickMovesOneStepTowardTheTarget : Obligations.RampTickMovesOneStepTowardTheTarget := by
  refine ⟨decode_encode (i := .rampTick) rfl, fun s => ?_⟩
  dsimp only
  rw [← val_tableIndexOf]
  refine ⟨fun hp hi => ?_, fun hp hi => ?_, fun hp => ?_⟩
  · have hval := val_stepToward s.setpoint (tableIndexOf s.target.r)
    rw [← State.rampTickBody_setpoint hi] at hval
    refine ⟨_, exec_rampTick_of_portC hp, ?_, fun hbelow => ?_, fun habove => ?_, fun hat => Fin.ext ?_, ?_⟩
    · rw [State.rampTickBody_setpoint hi, State.rampTickBody_of_initialised hi]
      exact State.returns_respond_of rfl rfl rfl
    · rw [hval, if_pos hbelow]
    · rw [hval, if_neg (by omega), if_pos habove]
      omega
    · rw [hval, if_neg (by omega), if_neg (by omega)]
    · simp [State.rampTickBody_of_initialised hi]
  · rw [exec_rampTick_of_portC hp, State.rampTickBody_of_not_initialised hi]
    exact ⟨_, rfl, s.respond_onlyAnswers .notReady 0⟩
  · rw [exec_rampTick_of_portD hp]
    exact ⟨_, rfl, s.respond_onlyAnswers .denied 0⟩

/-! ### The ramp (R223) -/

/-- A step that takes a `RAMP_TICK` word after `INIT` moves the setpoint and keeps the target. -/
theorem step_rampTick {s : State} {rest : List Input} (hi : s.initialised = true)
    (hin : s.inputs = .command .c 0x1200 :: rest) :
    ∃ t, step s = .next t ∧ t.initialised = true ∧ t.inputs = rest ∧ t.target = s.target ∧
      t.setpoint = stepToward s.setpoint (tableIndexOf s.target.r) := by
  have hdec : decode 0x1200 = .ok .rampTick := rampTickMovesOneStepTowardTheTarget.1
  rw [step_command hin, acceptWord_of_decode hdec, exec_rampTick_of_portC rfl,
    State.rampTickBody_of_initialised (s := { s with inputs := rest, port := .c }) hi]
  exact ⟨_, rfl, (State.respond_initialised ..).trans hi, State.respond_inputs .., State.respond_target ..,
    State.respond_setpoint ..⟩

/-- Where `n` steps of a ramp from `sp` toward `tgt` lead: `n` nearer, and not past it (R223). -/
def rampAfter (n : Nat) (sp tgt : Int) : Int := if sp ≤ tgt then min (sp + n) tgt else max (sp - n) tgt

theorem rampAfter_zero (sp tgt : Int) : rampAfter 0 sp tgt = sp := by
  unfold rampAfter
  split <;> omega

/-- One step of the ramp, then `n` more. -/
theorem rampAfter_succ (n : Nat) (sp tgt : Fin 127) :
    rampAfter (n + 1) sp.val tgt.val = rampAfter n (stepToward sp tgt).val tgt.val := by
  have hval := val_stepToward sp tgt
  unfold rampAfter
  split_ifs at hval ⊢ <;> omega

/-- `n` `RAMP_TICK` words after `INIT` are `n` steps of the ramp. -/
theorem run_rampTicks {rest : List Input} (n : Nat) (s : State) (hi : s.initialised = true)
    (hin : s.inputs = List.replicate n (.command .c 0x1200) ++ rest) :
    ∃ t, Host.Core.run core n s = .next t ∧ t.inputs = rest ∧ t.target = s.target ∧
      (t.setpoint.val : Int) = rampAfter n s.setpoint.val (tableIndexOf s.target.r).val := by
  induction n generalizing s with
  | zero => exact ⟨s, rfl, hin, rfl, (rampAfter_zero _ _).symm⟩
  | succ n ih =>
    obtain ⟨s', hstep, hi', hin', htgt', hsp'⟩ := step_rampTick hi hin
    obtain ⟨t, hrun, hrest, htgt, hsp⟩ := ih s' hi' hin'
    refine ⟨t, (run_succ_of_step (M := core) hstep n).trans hrun, hrest, htgt.trans htgt', ?_⟩
    rw [hsp, hsp', htgt', rampAfter_succ]

/-- Settles O47: the ramp, with the table index of the target written out. -/
theorem rampArrivesAfterItsDistance : Obligations.RampArrivesAfterItsDistance := by
  intro n s rest hi hin tgt
  obtain ⟨t, hrun, hrest, htgt, hsp⟩ := run_rampTicks n s hi hin
  refine ⟨t, hrun, hrest, htgt, hsp.trans ?_⟩
  have hidx : (tableIndexOf s.target.r).val = tgt := val_tableIndexOf s.target.r
  rw [hidx, rampAfter]
  simp only [Nat.cast_le]

end Sys2Proof.Machine

/-! PROOFS. The statements on the shared fields, the error bitmask and the state read (spec/45_shared_and_error_ops.md):
the writes and reads of the shared fields (R230 to R236), the error commands (R240 to R244) and `RD_STATE` (R250). -/

namespace Sys2Proof.Machine

/-! ### Port permission (R103) -/

theorem onPorts_onlyD_of_portD {s : State} (hp : s.port = .d) (body : State → State) :
    onPorts .onlyD s body = .next (body s) :=
  onPorts_allowed ((PortSet.onlyD_allows _).2 hp) body

/-- On a port that may not use it a command answers `DENIED` and changes nothing. -/
theorem onPorts_denied_onlyAnswers {ports : PortSet} {s : State} (h : ports.allows s.port = false)
    (body : State → State) : ∃ t, onPorts ports s body = .next t ∧ s.OnlyAnswers t ⟨.denied, 0⟩ :=
  ⟨_, onPorts_denied h body, s.respond_onlyAnswers .denied 0⟩

/-! ### Writes of the shared fields (R230 to R232) -/

/-- Settles O13: on port D both writer's copies are written; port C is not in the command's port set. -/
theorem wrTargetMovesTheOldTarget : Obligations.WrTargetMovesTheOldTarget := by
  intro ss s
  rw [exec_wrTarget]
  refine ⟨decode_encode (i := .wrTarget ss) rfl, fun hp => ?_, fun hp => onPorts_denied_onlyAnswers (hp ▸ rfl) _⟩
  refine ⟨_, onPorts_onlyD_of_portD hp _, State.returns_respond_of rfl rfl rfl, ?_⟩
  simp

/-- Settles O14: each command writes the writer's copy of its flag on its owner's port. -/
theorem handshakeWritesTheWritersCopy : Obligations.HandshakeWritesTheWritersCopy := by
  refine ⟨fun v s => ?_, fun v s => ?_⟩
  · have hword : (0x5100 + if v then 1 else 0 : U16) = encode (.wrSetupDone v) := by cases v <;> decide
    rw [hword, exec_wrSetupDone]
    refine ⟨decode_encode rfl, fun hp => ?_, fun hp => onPorts_denied_onlyAnswers (hp ▸ rfl) _⟩
    refine ⟨_, onPorts_onlyD_of_portD hp _, State.returns_respond_of rfl rfl rfl, ?_⟩
    simp
  · have hword : (0x5200 + if v then 1 else 0 : U16) = encode (.wrFseDone v) := by cases v <;> decide
    rw [hword, exec_wrFseDone]
    refine ⟨decode_encode rfl, fun hp => ?_, fun hp => onPorts_denied_onlyAnswers (hp ▸ rfl) _⟩
    refine ⟨_, onPorts_onlyC_of_portC hp _, State.returns_respond_of rfl rfl rfl, ?_⟩
    simp

/-! ### Reads of the shared fields (R233 to R236) -/

@[simp] theorem Synced.decodeWritten_c {α : Type} (f : Synced α) : f.decodeWritten .c = f.r := rfl

@[simp] theorem Synced.decodeWritten_d {α : Type} (f : Synced α) : f.decodeWritten .d = f.w := rfl

@[simp] theorem Synced.controlWritten_c {α : Type} (f : Synced α) : f.controlWritten .c = f.w := rfl

@[simp] theorem Synced.controlWritten_d {α : Type} (f : Synced α) : f.controlWritten .d = f.r := rfl

theorem toNat_zext32_u8 (v : U8) : (zext32 v).toNat = v.toNat := BitVec.toNat_setWidth_of_le (by decide)

theorem toNat_zext32_ofBool (b : Bool) : (zext32 (BitVec.ofBool b)).toNat = if b then 1 else 0 := by cases b <;> rfl

/-- A command that either port may use and that only answers, with data that is a number. -/
theorem exec_both_answers {i : Instr} {s : State} {d : State → U32} {n : Nat}
    (hexec : exec i s = onPorts .both s fun s => s.respond .ok (d s)) (hn : (d s).toNat = n) :
    ∃ t d, exec i s = .next t ∧ s.OnlyAnswers t ⟨.ok, d⟩ ∧ d.toNat = n :=
  ⟨_, _, hexec.trans (onPorts_allowed (PortSet.both_allows _) _), s.respond_onlyAnswers .ok (d s), hn⟩

/-- Settles O15: the copy that each port reads, widened, is the same number. -/
theorem sharedReadsAreOfThePortsCopy : Obligations.SharedReadsAreOfThePortsCopy := by
  refine ⟨decode_encode (i := .rdTarget) rfl, decode_encode (i := .rdTargetPrev) rfl,
    decode_encode (i := .rdSetupDone) rfl, decode_encode (i := .rdFseDone) rfl, fun s => ⟨fun hp => ?_, fun hp => ?_⟩⟩
  all_goals
    refine ⟨exec_both_answers (exec_rdTarget s) ?_, exec_both_answers (exec_rdTargetPrev s) ?_,
      exec_both_answers (exec_rdSetupDone s) ?_, exec_both_answers (exec_rdFseDone s) ?_⟩ <;>
      simp [hp, toNat_zext32_u8, toNat_zext32_ofBool]

/-! ### The error commands (R240 to R243) -/

/-- The bits of `error_state` after one bit is cleared (R241). -/
theorem getLsbD_clearErrorBit (e : U32) (b : BitVec 5) {k : Nat} (hk : k < 32) :
    (clearErrorBit e b).getLsbD k = (e.getLsbD k && k != b.toNat) := by
  have hb : b.toNat < 32 := b.isLt
  rw [clearErrorBit, errorMask, BitVec.getLsbD_and, BitVec.getLsbD_not, ← BitVec.twoPow_eq, BitVec.getLsbD_twoPow,
    decide_eq_true hb, decide_eq_true hk, Bool.true_and, Bool.true_and, bne, Bool.beq_comm]
  rfl

/-- Settles O19: the bit set is the operand's. -/
theorem setErrorSetsOneBit : Obligations.SetErrorSetsOneBit := by
  intro b s
  have hword : ∀ b : BitVec 5, BitVec.ofNat 16 (0x4000 + b.toNat) = encode (.setError b) := by decide
  refine ⟨hword b ▸ decode_encode rfl, _, (exec_setError b s).trans (onPorts_allowed (PortSet.both_allows _) _), ?_⟩
  rw [State.respond_errorState]
  refine ⟨State.returns_respond_of rfl rfl rfl, fun k _ => ?_, ?_⟩
  · rw [Bool.beq_comm]
    exact getLsbD_setErrorBit s.errorState b k
  · simp

/-- Settles O20: the bit cleared is the operand's. -/
theorem clearErrorClearsOneBit : Obligations.ClearErrorClearsOneBit := by
  intro b s
  have hword : ∀ b : BitVec 5, BitVec.ofNat 16 (0x4100 + b.toNat) = encode (.clearError b) := by decide
  refine ⟨hword b ▸ decode_encode rfl, _, (exec_clearError b s).trans (onPorts_allowed (PortSet.both_allows _) _), ?_⟩
  rw [State.respond_errorState]
  refine ⟨State.returns_respond_of rfl rfl rfl, fun k hk => getLsbD_clearErrorBit s.errorState b hk, ?_⟩
  simp

/-- Settles O21: one command writes 0, the other only answers. -/
theorem clearAllErrorsAndGetErrorState : Obligations.ClearAllErrorsAndGetErrorState := by
  refine ⟨decode_encode (i := .clearAllErrors) rfl, decode_encode (i := .getErrorState) rfl, fun s => ⟨?_, ?_⟩⟩
  · refine ⟨_, (exec_clearAllErrors s).trans (onPorts_allowed (PortSet.both_allows _) _),
      State.returns_respond_of rfl rfl rfl, State.respond_errorState .., ?_⟩
    simp
  · exact ⟨_, (exec_getErrorState s).trans (onPorts_allowed (PortSet.both_allows _) _), s.respond_onlyAnswers ..⟩

/-! ### A set bit stays set (R244) -/

/-- Every error bit that is set in `s` is set in `t`. -/
def State.KeepsErrors (s t : State) : Prop := ∀ k, s.errorState.getLsbD k = true → t.errorState.getLsbD k = true

theorem State.KeepsErrors.of_eq {s t : State} (h : t.errorState = s.errorState) : s.KeepsErrors t :=
  fun _ hk => h ▸ hk

theorem State.KeepsErrors.refl (s : State) : s.KeepsErrors s := .of_eq rfl

theorem State.keepsErrors_afterMeasure (s : State) (d : Direction) : s.KeepsErrors (s.afterMeasure d) := .of_eq rfl

/-- `raise` sets a bit and clears none (R265). -/
theorem State.KeepsErrors.raise {s t : State} (h : s.KeepsErrors t) (x : ErrorBit) : s.KeepsErrors (t.raise x) := by
  intro k hk
  rw [State.raise_errorState, getLsbD_setErrorBit, h k hk, Bool.true_or]

theorem State.KeepsErrors.respond {s t : State} (h : s.KeepsErrors t) (st : Status) (d : U32) :
    s.KeepsErrors (t.respond st d) := by
  rwa [State.KeepsErrors, State.respond_errorState]

theorem State.keepsErrors_initBody (s : State) : s.KeepsErrors s.initBody := by
  obtain ⟨-, ht⟩ | ⟨-, -, ht⟩ | ⟨-, -, -, ht⟩ | ⟨-, -, -, ht⟩ := s.initBody_cases <;> rw [ht]
  · exact .of_eq (by simp)
  · exact .of_eq (by simp)
  · exact ((State.KeepsErrors.refl s).raise _).respond _ _
  · exact .of_eq (by simp)

@[simp] theorem State.startupTick_errorState (s : State) : s.startupTick.errorState = s.errorState := by
  obtain ⟨-, ht⟩ | ⟨-, ht⟩ := s.startupTick_cases <;> simp [ht, State.applyNextLevel]

theorem State.keepsErrors_pidTick (s : State) : s.KeepsErrors s.pidTick := by
  obtain ⟨-, ht⟩ | ⟨-, ht⟩ | ⟨m, -, -, -, ht⟩ := s.pidTick_cases <;> rw [ht]
  · exact ((State.KeepsErrors.refl s).raise _).respond _ _
  · exact ((s.keepsErrors_afterMeasure _).raise _).respond _ _
  · exact .of_eq (by simp)

theorem State.keepsErrors_ctrlTickBody (s : State) : s.KeepsErrors s.ctrlTickBody := by
  obtain ⟨-, ht⟩ | ⟨-, -, ht⟩ | ⟨-, -, -, ht⟩ | ⟨-, -, -, ht⟩ := s.ctrlTickBody_cases <;> rw [ht]
  · exact .of_eq (by simp)
  · exact .of_eq (by simp)
  · exact .of_eq (by simp)
  · exact s.keepsErrors_pidTick

theorem State.keepsErrors_rampTickBody (s : State) : s.KeepsErrors s.rampTickBody := by
  obtain ⟨-, ht⟩ | ⟨-, sp, d, ht⟩ := s.rampTickBody_cases <;> rw [ht] <;> exact .of_eq (by simp)

theorem State.KeepsErrors.measure {s t : State} (h : s.KeepsErrors t) (d : Direction) :
    s.KeepsErrors (Machine.measure d t).2 := by
  obtain ⟨-, hm⟩ | ⟨-, -, hm⟩ | ⟨-, -, hm⟩ := measure_cases d t <;> rw [hm]
  · exact h.raise _
  · exact State.KeepsErrors.raise (t := t.afterMeasure d) h _
  · exact h

theorem State.keepsErrors_measureBody (s : State) (kk : U8) : s.KeepsErrors (s.measureBody kk) := by
  obtain ⟨st, d, ht⟩ := s.measureBody_eq kk
  rw [ht]
  refine .respond (.measure ?_ _) _ _
  obtain hd | hd := decodeDirection_state kk s <;> rw [hd]
  · exact .refl s
  · exact (State.KeepsErrors.refl s).raise _

/-- A command clears a set bit only as `CLEAR_ALL_ERRORS` or as `CLEAR_ERROR` of that bit. -/
theorem exec_clears {i : Instr} {s t : State} {k : Nat} (hrun : exec i s = .next t)
    (hset : s.errorState.getLsbD k = true) (hclear : t.errorState.getLsbD k = false) :
    i = .clearAllErrors ∨ ∃ b, i = .clearError b ∧ b.toNat = k := by
  have hkeep : ¬ s.KeepsErrors t := fun h => by simp [h k hset] at hclear
  cases exec_does hrun with
  | clearAllErrors => exact .inl rfl
  | clearError b =>
    have hk : k < 32 := BitVec.lt_of_getLsbD hset
    rw [State.respond_errorState, State.acknowledge_errorState, getLsbD_clearErrorBit _ _ hk, hset,
      Bool.true_and, bne_eq_false_iff_eq] at hclear
    exact .inr ⟨b, rfl, hclear.symm⟩
  | init => exact absurd s.keepsErrors_initBody hkeep
  | ctrlTick => exact absurd s.keepsErrors_ctrlTickBody hkeep
  | rampTick => exact absurd s.keepsErrors_rampTickBody hkeep
  | measure _ kk => exact absurd (s.keepsErrors_measureBody kk) hkeep
  | setError b =>
    rw [State.respond_errorState, getLsbD_setErrorBit, hset, Bool.true_or] at hclear
    contradiction
  | answer | wrTarget | wrSetupDone | wrFseDone => exact absurd (.of_eq (by simp)) hkeep

/-- Settles O22: of the inputs only reset and the two clearing commands clear a bit. -/
theorem errorBitsStayUntilCleared : Obligations.ErrorBitsStayUntilCleared := by
  intro s t k hstep hset hclear
  have hne : t.errorState ≠ s.errorState := fun h => by simp [h, hset] at hclear
  obtain ⟨-, rfl⟩ | ⟨p, w, rest, hin, ⟨i, hdec, hrun⟩ | ⟨-, rfl⟩⟩ | ⟨f, rest, -, rfl⟩ | ⟨rest, hin, -⟩ |
    ⟨c, rest, -, rfl⟩ | ⟨as, rest, -, rfl⟩ := step_cases hstep
  · exact absurd rfl hne
  · refine .inr ⟨p, w, by rw [hin]; rfl, ?_⟩
    obtain rfl | ⟨b, rfl, hb⟩ := exec_clears hrun hset hclear
    · exact .inl hdec
    · exact .inr ⟨b, hdec, hb⟩
  · exact absurd (State.respond_errorState ..) hne
  · exact absurd (State.sync_errorState ..) hne
  · exact .inl (by rw [hin]; rfl)
  · exact absurd rfl hne
  · exact absurd rfl hne

/-! ### Set error bits change no command's behaviour (R244) -/

/-- The state with another error bitmask. -/
def State.withErrors (s : State) (e : U32) : State := { s with errorState := e }

theorem State.withErrors_target (s : State) (e : U32) : (s.withErrors e).target = s.target := rfl

theorem State.withErrors_adcAnswers (s : State) (e : U32) : (s.withErrors e).adcAnswers = s.adcAnswers := rfl

theorem State.respond_withErrors (s : State) (e : U32) (st : Status) (d : U32) :
    (s.withErrors e).respond st d = (s.respond st d).withErrors e := by
  cases hp : s.port
  · rw [State.respond_c hp, State.respond_c (s := s.withErrors e) hp]
    rfl
  · rw [State.respond_d hp, State.respond_d (s := s.withErrors e) hp]
    rfl

/-- `t` is `s` but for the error bitmask. -/
def State.EqButErrors (s t : State) : Prop := ∃ e, t = s.withErrors e

theorem State.EqButErrors.respond {s t : State} (h : s.EqButErrors t) (st : Status) (d : U32) :
    (s.respond st d).EqButErrors (t.respond st d) := by
  obtain ⟨e, rfl⟩ := h
  exact ⟨e, s.respond_withErrors e st d⟩

theorem State.EqButErrors.raise {s t : State} (h : s.EqButErrors t) (x : ErrorBit) :
    (s.raise x).EqButErrors (t.raise x) := by
  obtain ⟨e, rfl⟩ := h
  exact ⟨setErrorBit e x.index, rfl⟩

theorem State.eqButErrors_initBody (s : State) (e : U32) : s.initBody.EqButErrors (s.withErrors e).initBody := by
  obtain ⟨hi, ht⟩ | ⟨hi, hr, ht⟩ | ⟨hi, hr, hv, ht⟩ | ⟨hi, hr, hv, ht⟩ := s.initBody_cases <;> rw [ht]
  · rw [State.initBody_of_initialised (s := s.withErrors e) hi]
    exact .respond ⟨e, rfl⟩ _ _
  · rw [State.initBody_of_not_ready (s := s.withErrors e) hi hr]
    exact .respond ⟨e, rfl⟩ _ _
  · rw [State.initBody_of_invalid (s := s.withErrors e) hi hr hv]
    exact .respond (.raise ⟨e, rfl⟩ _) _ _
  · rw [State.initBody_of_valid (s := s.withErrors e) hi hr hv]
    exact .respond ⟨e, rfl⟩ _ _

theorem State.eqButErrors_rampTickBody (s : State) (e : U32) :
    s.rampTickBody.EqButErrors (s.withErrors e).rampTickBody := by
  cases hi : s.initialised
  · rw [State.rampTickBody_of_not_initialised hi, State.rampTickBody_of_not_initialised (s := s.withErrors e) hi]
    exact .respond ⟨e, rfl⟩ _ _
  · rw [State.rampTickBody_of_initialised hi, State.rampTickBody_of_initialised (s := s.withErrors e) hi]
    exact .respond ⟨e, rfl⟩ _ _

theorem State.ceiling_withErrors (s : State) (e : U32) : (s.withErrors e).ceiling = s.ceiling := rfl

theorem State.nextLevel_withErrors (s : State) (e : U32) : (s.withErrors e).nextLevel = s.nextLevel := rfl

theorem State.startupBody_withErrors (s : State) (e : U32) :
    (s.withErrors e).startupBody = s.startupBody.withErrors e := by
  have hbody : ∀ u : State, u.startupBody =
      if u.ceiling ≤ u.nextLevel then u.applyNextLevel.handoff else u.applyNextLevel := fun _ => rfl
  rw [hbody, hbody, s.ceiling_withErrors, s.nextLevel_withErrors]
  split <;> rfl

theorem State.eqButErrors_startupTick (s : State) (e : U32) :
    s.startupTick.EqButErrors (s.withErrors e).startupTick := by
  unfold State.startupTick
  rw [s.startupBody_withErrors e]
  exact .respond ⟨e, rfl⟩ _ _

/-- The answers of the reads do not depend on the error bitmask (R145). -/
theorem adcReads_withErrors (pin : PinId) (n : Nat) (s : State) (e : U32) :
    (adcReads pin n (s.withErrors e)).1 = (adcReads pin n s).1 := by
  induction n generalizing s with
  | zero => rfl
  | succ n ih =>
    have hans : (adcRead pin (s.withErrors e)).1 = (adcRead pin s).1 := by
      unfold adcRead
      rw [s.withErrors_adcAnswers]
      split <;> rfl
    simp only [adcReads, hans, adcRead_state]
    exact congrArg _ (ih (s.afterReads pin 1))

theorem State.measureAnswers_withErrors (s : State) (e : U32) (d : Direction) :
    (s.withErrors e).measureAnswers d = s.measureAnswers d :=
  adcReads_withErrors _ _ (s.disableDrive.emit (.waitUs s.bemf.delayUs)) e

/-- `measure` gives the same mean or none, and the same state but for the error bitmask. -/
theorem measure_withErrors (d : Direction) (s : State) (e : U32) :
    ∃ e', measure d (s.withErrors e) = ((measure d s).1, (measure d s).2.withErrors e') := by
  cases hc : s.contract
  · rw [measure_broken d hc, measure_broken (s := s.withErrors e) d hc]
    exact ⟨setErrorBit e ErrorBit.configError.index, rfl⟩
  · rw [measure_sampled d hc, measure_sampled (s := s.withErrors e) d hc, s.measureAnswers_withErrors]
    split
    · exact ⟨setErrorBit e ErrorBit.measurementFault.index, rfl⟩
    · exact ⟨e, rfl⟩

theorem State.pidError_withErrors (s : State) (e : U32) (m : F32) : (s.withErrors e).pidError m = s.pidError m := rfl

theorem State.pidSum_withErrors (s : State) (e : U32) (m : F32) : (s.withErrors e).pidSum m = s.pidSum m := rfl

theorem State.tickData_withErrors (s : State) (e : U32) : (s.withErrors e).tickData = s.tickData := rfl

theorem State.pidWrite_withErrors (s : State) (b : U32) (m corrected kp e i d : F32) (level : U16) :
    (s.withErrors b).pidWrite m corrected kp e i d level = (s.pidWrite m corrected kp e i d level).withErrors b := rfl

theorem State.pidCommit_withErrors (s : State) (e : U32) (m : F32) :
    (s.withErrors e).pidCommit m = (s.pidCommit m).withErrors e := by
  unfold State.pidCommit
  rw [s.pidSum_withErrors, s.pidError_withErrors, s.pidWrite_withErrors]
  rfl

/-- A PID tick goes on from what `measure` gives and reads no error bit (R195). -/
theorem State.eqButErrors_pidTick (s : State) (e : U32) : s.pidTick.EqButErrors (s.withErrors e).pidTick := by
  obtain ⟨e', hm⟩ := measure_withErrors (directionOf s.target.r) s e
  unfold State.pidTick
  rw [s.withErrors_target, hm]
  generalize measure (directionOf s.target.r) s = r
  obtain ⟨_ | m, u⟩ := r
  · exact .respond ⟨e', rfl⟩ _ _
  · simp only [u.pidSum_withErrors, u.pidCommit_withErrors, State.tickData_withErrors]
    split
    · exact .respond (.raise ⟨e', rfl⟩ _) _ _
    · exact .respond ⟨e', rfl⟩ _ _

theorem State.eqButErrors_ctrlTickBody (s : State) (e : U32) :
    s.ctrlTickBody.EqButErrors (s.withErrors e).ctrlTickBody := by
  have hi : (s.withErrors e).initialised = s.initialised := rfl
  have h0 : (s.withErrors e).setpoint = s.setpoint := rfl
  have hm : (s.withErrors e).mode = s.mode := rfl
  unfold State.ctrlTickBody
  rw [hi, h0, hm]
  split_ifs
  · exact .respond ⟨e, rfl⟩ _ _
  · exact .respond ⟨e, rfl⟩ _ _
  · split
    · exact s.eqButErrors_startupTick e
    · exact s.eqButErrors_pidTick e

theorem decodeDirection_withErrors (kk : U8) (s : State) (e : U32) :
    ∃ e', decodeDirection kk (s.withErrors e) = ((decodeDirection kk s).1, (decodeDirection kk s).2.withErrors e') := by
  unfold decodeDirection
  split
  · exact ⟨e, rfl⟩
  · exact ⟨setErrorBit e ErrorBit.invalidDirection.index, rfl⟩

theorem State.eqButErrors_measureBody (s : State) (kk : U8) (e : U32) :
    (s.measureBody kk).EqButErrors ((s.withErrors e).measureBody kk) := by
  obtain ⟨e', hd⟩ := decodeDirection_withErrors kk s e
  unfold State.measureBody
  rw [hd]
  generalize decodeDirection kk s = r
  obtain ⟨d, u⟩ := r
  obtain ⟨e'', hm⟩ := measure_withErrors d u e'
  dsimp only
  rw [hm]
  generalize measure d u = r
  obtain ⟨_ | m, v⟩ := r
  · exact .respond ⟨e'', rfl⟩ _ _
  · exact .respond ⟨e'', rfl⟩ _ _

/-- A command whose body leaves the same but for the error bitmask answers with the same but for the error bitmask. -/
theorem onPorts_eqButErrors {ports : PortSet} {s : State} {e : U32} {body : State → State}
    (hbody : (body s).EqButErrors (body (s.withErrors e))) :
    ∃ t t', onPorts ports s body = .next t ∧ onPorts ports (s.withErrors e) body = .next t' ∧ t.EqButErrors t' := by
  cases hallow : ports.allows s.port
  · exact ⟨_, _, onPorts_denied hallow _, onPorts_denied (s := s.withErrors e) hallow _, .respond ⟨e, rfl⟩ _ _⟩
  · exact ⟨_, _, onPorts_allowed hallow _, onPorts_allowed (s := s.withErrors e) hallow _, hbody⟩

theorem scalarRegister_withErrors (s : State) (e : U32) {n : Nat} (hn : n ≠ 0xD4) :
    scalarRegister (s.withErrors e) n = scalarRegister s n := by
  unfold scalarRegister
  split
  case h_49 => exact absurd rfl hn
  all_goals rfl

theorem regRead_withErrors (s : State) (e : U32) {xx : U8} (hxx : xx ≠ 0xD4) :
    regRead (s.withErrors e) xx = regRead s xx := by
  have hn : xx.toNat ≠ 0xD4 := fun h => hxx (BitVec.eq_of_toNat_eq h)
  unfold regRead
  rw [scalarRegister_withErrors s e hn]
  rfl

/-- Every command but those that return the error bitmask answers with the same but for the error bitmask. -/
theorem exec_eqButErrors {i : Instr} (s : State) (e : U32) (hset : ∀ b, i ≠ .setError b)
    (hclear : ∀ b, i ≠ .clearError b) (hget : i ≠ .getErrorState) (hread : i ≠ .rdState 0xD4) :
    ∃ t t', exec i s = .next t ∧ exec i (s.withErrors e) = .next t' ∧ t.EqButErrors t' := by
  cases i with
  | setError b => exact absurd rfl (hset b)
  | clearError b => exact absurd rfl (hclear b)
  | getErrorState => exact absurd rfl hget
  | init => exact onPorts_eqButErrors (s.eqButErrors_initBody e)
  | ctrlTick => exact onPorts_eqButErrors (s.eqButErrors_ctrlTickBody e)
  | rampTick => exact onPorts_eqButErrors (s.eqButErrors_rampTickBody e)
  | measure kk => exact onPorts_eqButErrors (s.eqButErrors_measureBody kk e)
  | rdState xx =>
    have hreg := regRead_withErrors s e (xx := xx) fun h => hread (h ▸ rfl)
    cases hr : regRead s xx with
    | none => exact ⟨_, _, exec_rdState_reserved hr, exec_rdState_reserved (hreg.trans hr), .respond ⟨e, rfl⟩ _ _⟩
    | some v =>
      rw [exec_rdState hr, exec_rdState (hreg.trans hr)]
      exact onPorts_eqButErrors (.respond ⟨e, rfl⟩ _ _)
  | directionOf | tableIndexOf | decodeStep | getKp | getInitialLevel | clearAllErrors | wrTarget | wrSetupDone
  | wrFseDone | rdTarget | rdTargetPrev | rdSetupDone | rdFseDone =>
    simp only [exec_directionOf, exec_tableIndexOf, exec_decodeStep, exec_getKp, exec_getInitialLevel,
      exec_clearAllErrors, exec_wrTarget, exec_wrSetupDone, exec_wrFseDone, exec_rdTarget, exec_rdTargetPrev,
      exec_rdSetupDone, exec_rdFseDone]
    exact onPorts_eqButErrors (.respond ⟨_, rfl⟩ _ _)

/-- Settles O24: what differs of the two next states is the error bitmask. -/
theorem errorStateDecidesNothing : Obligations.ErrorStateDecidesNothing := by
  intro i s t e hset hclear hget hread hrun
  obtain ⟨u, t', hu, hrun', e', rfl⟩ := exec_eqButErrors s e hset hclear hget hread
  obtain rfl := Host.Outcome.next.inj (hrun.symm.trans hu)
  exact ⟨_, hrun', rfl⟩

/-! ### The state read (R250) -/

theorem exec_rdState_onlyAnswers {s : State} {xx : U8} {v : U32} (hp : s.port = .c) (h : regRead s xx = some v) :
    ∃ t, exec (.rdState xx) s = .next t ∧ s.OnlyAnswers t ⟨.ok, v⟩ :=
  ⟨_, (exec_rdState h).trans (onPorts_onlyC_of_portC hp _), s.respond_onlyAnswers .ok v⟩

theorem regRead_speedTable (s : State) (k : Fin 127) :
    regRead s (BitVec.ofNat 8 k.val) = some (zext32 s.speedTable[k]) := by
  have hk : (BitVec.ofNat 8 k.val).toNat = k.val := Nat.mod_eq_of_lt (k.isLt.trans (by decide))
  simp [regRead, hk]

theorem regRead_history (s : State) (k : Fin 16) :
    regRead s (BitVec.ofNat 8 (0x80 + k.val)) = some (zext32 s.startup.history[k]) := by
  have hk : (BitVec.ofNat 8 (0x80 + k.val)).toNat = 0x80 + k.val := Nat.mod_eq_of_lt (by omega)
  rw [regRead, dif_neg (by omega), dif_pos (by omega)]
  simp [hk]

theorem setWidth_ofBool (b : Bool) : (BitVec.ofBool b).setWidth 32 = BitVec.ofNat 32 b.toNat := by cases b <;> rfl

/-- The mode bit, widened (R32). -/
theorem setWidth_bit_mode (m : Mode) : m.bit.setWidth 32 = BitVec.ofNat 32 (if m = .pid then 1 else 0) := by
  cases m <;> rfl

/-- Settles O48: the two arrays by their index, then each row of the map evaluated. -/
theorem rdStateReadsEveryRegister : Obligations.RdStateReadsEveryRegister := by
  intro s hp
  refine ⟨fun k => exec_rdState_onlyAnswers hp (regRead_speedTable s k),
    fun k => exec_rdState_onlyAnswers hp (regRead_history s k),
    fun row hrow => exec_rdState_onlyAnswers hp ?_, fun row hrow => exec_rdState_onlyAnswers hp ?_⟩
  · fin_cases hrow <;> rfl
  · fin_cases hrow <;> simp [regRead, scalarRegister, zext32, setWidth_ofBool, setWidth_bit_mode]

/-- No scalar register has a reserved number (R250). -/
theorem scalarRegister_of_reserved (s : State) {n : Nat}
    (h : n = 0x7F ∨ (0x9C ≤ n ∧ n ≤ 0x9F) ∨ n = 0xAF ∨ (0xB8 ≤ n ∧ n ≤ 0xBF) ∨ (0xC9 ≤ n ∧ n ≤ 0xCF) ∨ 0xD5 ≤ n) :
    scalarRegister s n = none := by
  unfold scalarRegister
  split
  case h_50 => rfl
  all_goals omega

/-- Settles O49: a reserved number is in neither array, and no scalar register has it. -/
theorem rdStateOfAReservedNumberIsIllegal : Obligations.RdStateOfAReservedNumberIsIllegal := by
  intro xx s hx
  have hn : xx.toNat = 0x7F ∨ (0x9C ≤ xx.toNat ∧ xx.toNat ≤ 0x9F) ∨ xx.toNat = 0xAF ∨
      (0xB8 ≤ xx.toNat ∧ xx.toNat ≤ 0xBF) ∨ (0xC9 ≤ xx.toNat ∧ xx.toNat ≤ 0xCF) ∨ 0xD5 ≤ xx.toNat := by
    simpa [← BitVec.toNat_inj] using hx
  have hread : regRead s xx = none := by
    rw [regRead, dif_neg (by omega), dif_neg (by omega), scalarRegister_of_reserved s hn]
  exact ⟨_, exec_rdState_reserved hread, s.respond_onlyAnswers .illegal 0⟩

end Sys2Proof.Machine

/-! PROOFS. The statements on errors and privilege by port (spec/60_exceptions.md): the places that raise an error bit
(R261) and the commands a port may not use (R290). -/

namespace Sys2Proof.Machine

/-! ### The ports of a command (R103, R290) -/

/-- The scalar registers of R30 have the numbers between the reserved ones. -/
theorem scalarRegister_of_not_reserved (s : State) {n : Nat}
    (h : (0x90 ≤ n ∧ n ≤ 0x9B) ∨ (0xA0 ≤ n ∧ n ≤ 0xAE) ∨ (0xB0 ≤ n ∧ n ≤ 0xB7) ∨ (0xC0 ≤ n ∧ n ≤ 0xC8) ∨
      (0xD0 ≤ n ∧ n ≤ 0xD4)) : ∃ v, scalarRegister s n = some v := by
  unfold scalarRegister
  split
  case h_50 => grind
  all_goals exact ⟨_, rfl⟩

/-- A number that is not reserved is a register: of the speed table, of the history, or a scalar one. -/
theorem regRead_of_not_reserved (s : State) {xx : U8} (h : reservedIndex xx = false) : ∃ v, regRead s xx = some v := by
  simp only [reservedIndex, Bool.or_eq_false_iff, Bool.and_eq_false_iff, beq_eq_false_iff_ne, decide_eq_false_iff_not]
    at h
  unfold regRead
  split
  · exact ⟨_, rfl⟩
  · split
    · exact ⟨_, rfl⟩
    · exact scalarRegister_of_not_reserved s (by omega)

/-- The status of the last response on the port of the current command. -/
def State.lastStatus (s : State) : Option Status := (s.response s.port).map Response.status

@[simp] theorem State.lastStatus_respond (s : State) (st : Status) (d : U32) : (s.respond st d).lastStatus = some st := by
  simp [State.lastStatus]

theorem State.lastStatus_startupTick (s : State) : s.startupTick.lastStatus = some .ok := State.lastStatus_respond ..

theorem State.lastStatus_pidTick (s : State) : s.pidTick.lastStatus ≠ some .denied := by
  obtain ⟨-, ht⟩ | ⟨-, ht⟩ | ⟨m, -, -, -, ht⟩ := s.pidTick_cases <;> simp [ht]

theorem State.lastStatus_ctrlTickBody (s : State) : s.ctrlTickBody.lastStatus ≠ some .denied := by
  obtain ⟨-, ht⟩ | ⟨-, -, ht⟩ | ⟨-, -, -, ht⟩ | ⟨-, -, -, ht⟩ := s.ctrlTickBody_cases <;> rw [ht]
  · simp
  · simp
  · simp [s.lastStatus_startupTick]
  · exact s.lastStatus_pidTick

theorem State.lastStatus_rampTickBody (s : State) : s.rampTickBody.lastStatus ≠ some .denied := by
  obtain ⟨-, ht⟩ | ⟨-, sp, d, ht⟩ := s.rampTickBody_cases <;> simp [ht]

theorem State.lastStatus_measureBody (s : State) (kk : U8) : (s.measureBody kk).lastStatus ≠ some .denied := by
  unfold State.measureBody
  dsimp only
  split <;> simp

/-- Every command is a body under the port set that the map gives it (R114), and no body but that of `INIT` answers
`DENIED`. -/
theorem exec_eq_onPorts {i : Instr} (s : State) (hwf : i.wf = true) :
    ∃ body, exec i s = onPorts i.ports s body ∧ (i ≠ .init → (body s).lastStatus ≠ some .denied) := by
  cases i with
  | init => exact ⟨_, exec_init s, fun hinit => absurd rfl hinit⟩
  | ctrlTick => exact ⟨_, exec_ctrlTick s, fun _ => s.lastStatus_ctrlTickBody⟩
  | rampTick => exact ⟨_, exec_rampTick s, fun _ => s.lastStatus_rampTickBody⟩
  | measure kk => exact ⟨_, exec_measure kk s, fun _ => s.lastStatus_measureBody kk⟩
  | rdState xx =>
    obtain ⟨v, hv⟩ := regRead_of_not_reserved s (by simpa [Instr.wf] using hwf)
    exact ⟨_, exec_rdState hv, fun _ => by simp⟩
  | directionOf | tableIndexOf | decodeStep | getKp | getInitialLevel | setError | clearError | clearAllErrors
  | getErrorState | wrTarget | wrSetupDone | wrFseDone | rdTarget | rdTargetPrev | rdSetupDone | rdFseDone =>
    simp only [exec_directionOf, exec_tableIndexOf, exec_decodeStep, exec_getKp, exec_getInitialLevel, exec_setError,
      exec_clearError, exec_clearAllErrors, exec_getErrorState, exec_wrTarget, exec_wrSetupDone, exec_wrFseDone,
      exec_rdTarget, exec_rdTargetPrev, exec_rdSetupDone, exec_rdFseDone]
    exact ⟨_, rfl, fun _ => by simp⟩

theorem State.AnswersOnce.port {s t : State} (h : s.AnswersOnce t) : t.port = s.port := by
  cases h with
  | refusal => simp
  | ok _ hsame | fault _ hsame => simp [hsame.port]

/-- Settles O5: R290's table is the port sets of the map, and the status of the one response is not `DENIED` where the
port is permitted. -/
theorem wrongPortIsDenied : Obligations.WrongPortIsDenied := by
  intro i s hwf wrong
  have hwrong : wrong = !i.ports.allows s.port := by
    unfold wrong
    generalize s.port = p
    cases i <;> cases p <;> rfl
  obtain ⟨body, hexec, hstatus⟩ := exec_eq_onPorts s hwf
  refine ⟨fun hw => ?_, fun hw hinit => ?_⟩
  · have hdeny : i.ports.allows s.port = false := by simpa [hwrong] using hw
    exact hexec ▸ onPorts_denied_onlyAnswers hdeny body
  · have hallow : i.ports.allows s.port = true := by simpa [hwrong] using hw
    have hrun : exec i s = .next (body s) := hexec.trans (onPorts_allowed hallow body)
    obtain ⟨t, hrun', honce⟩ := exec_answersOnce i s
    obtain rfl := Host.Outcome.next.inj (hrun.symm.trans hrun')
    obtain ⟨r, hr, -⟩ := honce.returns
    refine ⟨_, r, hrun, hr, fun hdenied => hstatus hinit ?_⟩
    rw [State.lastStatus, honce.port, hr.1, Option.map_some, hdenied]

/-! ### The places that raise an error bit (R261) -/

/-- R261's table: in state `s` the command may raise the error bit. -/
inductive MayRaise (s : State) : Instr → ErrorBit → Prop where
  | measureCode {kk : U8} (hkk : 2 ≤ kk.toNat) : MayRaise s (.measure kk) .invalidDirection
  | initConfig (hi : s.initialised = false) : MayRaise s .init .configError
  | measureContract (kk : U8) : MayRaise s (.measure kk) .configError
  | measureFault (kk : U8) : MayRaise s (.measure kk) .measurementFault
  | tickContract (hi : s.initialised = true) (hm : s.mode = .pid) (h0 : s.setpoint ≠ 0) :
      MayRaise s .ctrlTick .configError
  | tickFault (hi : s.initialised = true) (hm : s.mode = .pid) (h0 : s.setpoint ≠ 0) :
      MayRaise s .ctrlTick .measurementFault

/-- Every bit that is clear in `s` and set in `t` is one of the error bits in `causes`. -/
def State.RaisesOnly (causes : ErrorBit → Prop) (s t : State) : Prop :=
  ∀ k, s.errorState.getLsbD k = false → t.errorState.getLsbD k = true → ∃ x, causes x ∧ x.index.toNat = k

section
variable {causes : ErrorBit → Prop} {s t : State}

theorem State.RaisesOnly.of_eq (h : t.errorState = s.errorState) : State.RaisesOnly causes s t := by
  intro k hclear hset
  simp [h, hclear] at hset

theorem State.RaisesOnly.raise (h : State.RaisesOnly causes s t) {x : ErrorBit} (hx : causes x) :
    State.RaisesOnly causes s (t.raise x) := by
  intro k hclear hset
  rw [State.raise_errorState, getLsbD_setErrorBit, Bool.or_eq_true, beq_iff_eq] at hset
  obtain hset | hk := hset
  · exact h k hclear hset
  · exact ⟨x, hx, hk⟩

theorem State.RaisesOnly.respond (h : State.RaisesOnly causes s t) (st : Status) (d : U32) :
    State.RaisesOnly causes s (t.respond st d) := by
  rwa [State.RaisesOnly, State.respond_errorState]

/-- `measure` raises one of two bits, or none (R142, R147). -/
theorem State.RaisesOnly.measure (h : State.RaisesOnly causes s t) (hcontract : causes .configError)
    (hfault : causes .measurementFault) (d : Direction) : State.RaisesOnly causes s (Machine.measure d t).2 := by
  obtain ⟨-, hm⟩ | ⟨-, -, hm⟩ | ⟨-, -, hm⟩ := measure_cases d t <;> rw [hm]
  · exact h.raise hcontract
  · exact State.RaisesOnly.raise (t := t.afterMeasure d) h hfault
  · exact h

/-- A PID tick raises what its measurement does, or the same bit for a NaN sum (R186, R192). -/
theorem State.raisesOnly_pidTick (hcontract : causes .configError) (hfault : causes .measurementFault) :
    State.RaisesOnly causes s s.pidTick := by
  obtain ⟨-, ht⟩ | ⟨-, ht⟩ | ⟨m, -, -, -, ht⟩ := s.pidTick_cases <;> rw [ht]
  · exact .respond (.raise (.of_eq rfl) hcontract) _ _
  · exact .respond (.raise (.of_eq (State.afterMeasure_errorState ..)) hfault) _ _
  · exact .of_eq (by simp)

end

theorem State.raisesOnly_initBody (s : State) : State.RaisesOnly (MayRaise s .init) s s.initBody := by
  obtain ⟨-, ht⟩ | ⟨-, -, ht⟩ | ⟨hi, -, -, ht⟩ | ⟨-, -, -, ht⟩ := s.initBody_cases <;> rw [ht]
  · exact .of_eq (by simp)
  · exact .of_eq (by simp)
  · exact .respond (.raise (.of_eq rfl) (.initConfig hi)) _ _
  · exact .of_eq (by simp)

theorem State.raisesOnly_ctrlTickBody (s : State) : State.RaisesOnly (MayRaise s .ctrlTick) s s.ctrlTickBody := by
  obtain ⟨-, ht⟩ | ⟨-, -, ht⟩ | ⟨-, -, -, ht⟩ | ⟨hi, h0, hm, ht⟩ := s.ctrlTickBody_cases <;> rw [ht]
  · exact .of_eq (by simp)
  · exact .of_eq (by simp)
  · exact .of_eq (by simp)
  · exact State.raisesOnly_pidTick (.tickContract hi hm h0) (.tickFault hi hm h0)

theorem State.rampTickBody_errorState (s : State) : s.rampTickBody.errorState = s.errorState := by
  obtain ⟨-, ht⟩ | ⟨-, sp, d, ht⟩ := s.rampTickBody_cases <;> simp [ht]

theorem State.raisesOnly_measureBody (s : State) (kk : U8) :
    State.RaisesOnly (MayRaise s (.measure kk)) s (s.measureBody kk) := by
  obtain ⟨st, d, ht⟩ := s.measureBody_eq kk
  rw [ht]
  refine .respond (.measure ?_ (.measureContract kk) (.measureFault kk) _) _ _
  obtain hkk | hkk := Nat.lt_or_ge 1 kk.toNat
  · rw [decodeDirection_of_none (directionOfCode_eq_none hkk)]
    exact .raise (.of_eq rfl) (.measureCode hkk)
  · obtain ⟨d, hd, -⟩ := exists_directionOfCode hkk s.params
    rw [decodeDirection_of_some hd]
    exact .of_eq rfl

/-- A command sets a clear bit only as `SET_ERROR` of that bit, or on port C where R261 lists it. -/
theorem exec_sets {i : Instr} {s t : State} {k : Nat} (hrun : exec i s = .next t)
    (hclear : s.errorState.getLsbD k = false) (hset : t.errorState.getLsbD k = true) :
    (∃ b, i = .setError b ∧ b.toNat = k) ∨ (s.port = .c ∧ ∃ x, MayRaise s i x ∧ x.index.toNat = k) := by
  have hne : t.errorState ≠ s.errorState := fun h => by simp [h, hclear] at hset
  cases exec_does hrun with
  | setError b =>
    rw [State.respond_errorState, getLsbD_setErrorBit, hclear, Bool.false_or, beq_iff_eq] at hset
    exact .inl ⟨b, rfl, hset⟩
  | init hp => exact .inr ⟨hp, s.raisesOnly_initBody k hclear hset⟩
  | ctrlTick hp => exact .inr ⟨hp, s.raisesOnly_ctrlTickBody k hclear hset⟩
  | measure hp kk => exact .inr ⟨hp, s.raisesOnly_measureBody kk k hclear hset⟩
  | clearError b =>
    rw [State.respond_errorState, State.acknowledge_errorState, getLsbD_clearErrorBit _ _ (BitVec.lt_of_getLsbD hset),
      hclear, Bool.false_and] at hset
    contradiction
  | clearAllErrors => simp at hset
  | rampTick => exact absurd s.rampTickBody_errorState hne
  | answer | wrTarget | wrSetupDone | wrFseDone => exact absurd (by simp) hne

/-- Settles O23: of the inputs only a command's word sets a bit; each row of R261's table is a case of the statement. -/
theorem onlyListedCausesSetErrorBits : Obligations.OnlyListedCausesSetErrorBits := by
  intro s t k hstep hclear hset
  have hne : t.errorState ≠ s.errorState := fun h => by simp [h, hclear] at hset
  obtain ⟨-, rfl⟩ | ⟨p, w, rest, hin, ⟨i, hdec, hrun⟩ | ⟨-, rfl⟩⟩ | ⟨f, rest, -, rfl⟩ | ⟨rest, -, rfl⟩ |
    ⟨c, rest, -, rfl⟩ | ⟨as, rest, -, rfl⟩ := step_cases hstep
  · exact absurd rfl hne
  · refine ⟨p, w, i, by rw [hin]; rfl, hdec, ?_⟩
    obtain hb | ⟨hp, x, hx, rfl⟩ := exec_sets hrun hclear hset
    · exact .inl hb
    · refine .inr ⟨hp, ?_⟩
      cases hx with
      | measureCode hkk => exact .inl ⟨rfl, _, rfl, hkk⟩
      | initConfig hi => exact .inr (.inl ⟨rfl, rfl, hi⟩)
      | measureContract kk => exact .inr (.inr ⟨.inl rfl, .inl ⟨kk, rfl⟩⟩)
      | measureFault kk => exact .inr (.inr ⟨.inr rfl, .inl ⟨kk, rfl⟩⟩)
      | tickContract hi hm h0 => exact .inr (.inr ⟨.inl rfl, .inr ⟨rfl, hi, hm, h0⟩⟩)
      | tickFault hi hm h0 => exact .inr (.inr ⟨.inr rfl, .inr ⟨rfl, hi, hm, h0⟩⟩)
  · exact absurd (State.respond_errorState ..) hne
  · exact absurd (State.sync_errorState ..) hne
  · simp [State.applyReset, State.reset] at hset
  · exact absurd rfl hne
  · exact absurd rfl hne

end Sys2Proof.Machine

/-! PROOFS. The statements on reset and on the inputs that are no command (spec/70_reset_and_hazards.md): waiting (R303),
the environment's inputs (R72, R145) and the event `RESET` (R300 to R302). -/

namespace Sys2Proof.Machine

/-! ### A step by its next input (R10, R303) -/

/-- With no input the CORE waits. -/
theorem step_of_no_input {s : State} (hin : s.inputs = []) : step s = .next s := by
  rw [step, hin]

/-- A step takes the next input, which leaves the list. -/
theorem step_of_input {s : State} {x : Input} {rest : List Input} (hin : s.inputs = x :: rest) :
    step s = takeInput x { s with inputs := rest } := by
  rw [step, hin]

/-- Settles O7: no input is waiting, and each of the environment's two inputs is taken as a field replaced. -/
theorem stepOfTheOtherInputs : Obligations.StepOfTheOtherInputs := by
  refine ⟨fun _ hin => step_of_no_input hin, fun s c rest hin => ?cvStore, fun s as rest hin => ?adc⟩
  case cvStore =>
    rw [step_of_input hin, takeInput]
  case adc =>
    rw [step_of_input hin, takeInput]

/-! ### The event `RESET` (R300 to R302) -/

/-- Settles O51: the event taken is `applyReset`, whose surroundings are those of the state with its input taken. -/
theorem resetEventRestoresTheResetState : Obligations.ResetEventRestoresTheResetState := by
  intro s rest hin
  rw [step_of_input hin, takeInput, State.applyReset]

end Sys2Proof.Machine
